-- ==== Sys2Proof/Word.lean ====
section
/-! DEFINITION. Word.lean: the word types of the PPC405. A register, an address and an instruction are 32 bits wide. The spec
numbers bits from the most significant one (00_scope.md R10); the accessors that follow that numbering are in
Machine/Bits.lean. -/

namespace Sys2Proof

/-- A 32-bit word: a register's contents, an effective or physical address, an instruction (00_scope.md R8). -/
abbrev Word := BitVec 32

/-- A byte of memory (00_scope.md R13). -/
abbrev Byte := BitVec 8

/-- The number of a general-purpose register, 0 to 31 (30_encoding.md R281). -/
abbrev Reg := BitVec 5

end Sys2Proof
end

