-- ==== Sys2Proof/Syntax.lean ====
section
/-! DEFINITION. Syntax.lean: the instructions of the PPC405, one constructor for each row of the opcode table. A register
number, a bit number of CR, a CR field number and an immediate are the bits the encoding holds; a one-bit option
(OE, Rc, LK, AA, E) is a Bool; the split fields SPRF, DCRF, TBRF stand here unsplit, as the register number that the
assembler names (30_encoding.md R281, R289). -/

namespace Sys2Proof

/-- The instructions of the PPC405 (30_encoding.md R297 to R301). The docstring of a constructor cites the rule that gives
its meaning. Destination registers come first, as in the assembler syntax. -/
inductive Instr where
  /-- `add rD,rA,rB` (R505). -/
  | add (rD rA rB : Reg) (oe rc : Bool)
  /-- `addc rD,rA,rB` (R506). -/
  | addc (rD rA rB : Reg) (oe rc : Bool)
  /-- `adde rD,rA,rB` (R507). -/
  | adde (rD rA rB : Reg) (oe rc : Bool)
  /-- `addi rD,rA,SIMM` (R508). -/
  | addi (rD rA : Reg) (simm : BitVec 16)
  /-- `addic rD,rA,SIMM` (R509). -/
  | addic (rD rA : Reg) (simm : BitVec 16)
  /-- `addic. rD,rA,SIMM` (R510). -/
  | addicDot (rD rA : Reg) (simm : BitVec 16)
  /-- `addis rD,rA,SIMM` (R511). -/
  | addis (rD rA : Reg) (simm : BitVec 16)
  /-- `addme rD,rA` (R512). -/
  | addme (rD rA : Reg) (oe rc : Bool)
  /-- `addze rD,rA` (R513). -/
  | addze (rD rA : Reg) (oe rc : Bool)
  /-- `and rA,rS,rB` (R551). -/
  | and (rA rS rB : Reg) (rc : Bool)
  /-- `andc rA,rS,rB` (R552). -/
  | andc (rA rS rB : Reg) (rc : Bool)
  /-- `andi. rA,rS,UIMM` (R553). -/
  | andiDot (rA rS : Reg) (uimm : BitVec 16)
  /-- `andis. rA,rS,UIMM` (R554). -/
  | andisDot (rA rS : Reg) (uimm : BitVec 16)
  /-- `b target` (R384). -/
  | b (li : BitVec 24) (aa lk : Bool)
  /-- `bc BO,BI,target` (R385). -/
  | bc (bo bi : BitVec 5) (bd : BitVec 14) (aa lk : Bool)
  /-- `bcctr BO,BI` (R387). -/
  | bcctr (bo bi : BitVec 5) (lk : Bool)
  /-- `bclr BO,BI` (R386). -/
  | bclr (bo bi : BitVec 5) (lk : Bool)
  /-- `cmp crfD,0,rA,rB` (R570). -/
  | cmp (crfD : BitVec 3) (rA rB : Reg)
  /-- `cmpi crfD,0,rA,SIMM` (R571). -/
  | cmpi (crfD : BitVec 3) (rA : Reg) (simm : BitVec 16)
  /-- `cmpl crfD,0,rA,rB` (R572). -/
  | cmpl (crfD : BitVec 3) (rA rB : Reg)
  /-- `cmpli crfD,0,rA,UIMM` (R573). -/
  | cmpli (crfD : BitVec 3) (rA : Reg) (uimm : BitVec 16)
  /-- `cntlzw rA,rS` (R567). -/
  | cntlzw (rA rS : Reg) (rc : Bool)
  /-- `crand crbD,crbA,crbB` (R388). -/
  | crand (crbD crbA crbB : BitVec 5)
  /-- `crandc crbD,crbA,crbB` (R389). -/
  | crandc (crbD crbA crbB : BitVec 5)
  /-- `creqv crbD,crbA,crbB` (R390). -/
  | creqv (crbD crbA crbB : BitVec 5)
  /-- `crnand crbD,crbA,crbB` (R391). -/
  | crnand (crbD crbA crbB : BitVec 5)
  /-- `crnor crbD,crbA,crbB` (R392). -/
  | crnor (crbD crbA crbB : BitVec 5)
  /-- `cror crbD,crbA,crbB` (R393). -/
  | cror (crbD crbA crbB : BitVec 5)
  /-- `crorc crbD,crbA,crbB` (R394). -/
  | crorc (crbD crbA crbB : BitVec 5)
  /-- `crxor crbD,crbA,crbB` (R395). -/
  | crxor (crbD crbA crbB : BitVec 5)
  /-- `dcba rA,rB` (R701). -/
  | dcba (rA rB : Reg)
  /-- `dcbf rA,rB` (R702). -/
  | dcbf (rA rB : Reg)
  /-- `dcbi rA,rB` (R703). -/
  | dcbi (rA rB : Reg)
  /-- `dcbst rA,rB` (R704). -/
  | dcbst (rA rB : Reg)
  /-- `dcbt rA,rB` (R705). -/
  | dcbt (rA rB : Reg)
  /-- `dcbtst rA,rB` (R706). -/
  | dcbtst (rA rB : Reg)
  /-- `dcbz rA,rB` (R707). -/
  | dcbz (rA rB : Reg)
  /-- `dccci rA,rB` (R708). -/
  | dccci (rA rB : Reg)
  /-- `dcread rD,rA,rB` (R709). -/
  | dcread (rD rA rB : Reg)
  /-- `divw rD,rA,rB` (R525). -/
  | divw (rD rA rB : Reg) (oe rc : Bool)
  /-- `divwu rD,rA,rB` (R526). -/
  | divwu (rD rA rB : Reg) (oe rc : Bool)
  /-- `eieio` (R676). -/
  | eieio
  /-- `eqv rA,rS,rB` (R555). -/
  | eqv (rA rS rB : Reg) (rc : Bool)
  /-- `extsb rA,rS` (R556). -/
  | extsb (rA rS : Reg) (rc : Bool)
  /-- `extsh rA,rS` (R557). -/
  | extsh (rA rS : Reg) (rc : Bool)
  /-- `icbi rA,rB` (R710). -/
  | icbi (rA rB : Reg)
  /-- `icbt rA,rB` (R711). -/
  | icbt (rA rB : Reg)
  /-- `iccci rA,rB` (R712). -/
  | iccci (rA rB : Reg)
  /-- `icread rA,rB` (R713). -/
  | icread (rA rB : Reg)
  /-- `isync` (R678). -/
  | isync
  /-- `lbz rD,d(rA)` (R430). -/
  | lbz (rD rA : Reg) (d : BitVec 16)
  /-- `lbzu rD,d(rA)` (R431). -/
  | lbzu (rD rA : Reg) (d : BitVec 16)
  /-- `lbzux rD,rA,rB` (R432). -/
  | lbzux (rD rA rB : Reg)
  /-- `lbzx rD,rA,rB` (R433). -/
  | lbzx (rD rA rB : Reg)
  /-- `lha rD,d(rA)` (R434). -/
  | lha (rD rA : Reg) (d : BitVec 16)
  /-- `lhau rD,d(rA)` (R435). -/
  | lhau (rD rA : Reg) (d : BitVec 16)
  /-- `lhaux rD,rA,rB` (R436). -/
  | lhaux (rD rA rB : Reg)
  /-- `lhax rD,rA,rB` (R437). -/
  | lhax (rD rA rB : Reg)
  /-- `lhbrx rD,rA,rB` (R458). -/
  | lhbrx (rD rA rB : Reg)
  /-- `lhz rD,d(rA)` (R438). -/
  | lhz (rD rA : Reg) (d : BitVec 16)
  /-- `lhzu rD,d(rA)` (R439). -/
  | lhzu (rD rA : Reg) (d : BitVec 16)
  /-- `lhzux rD,rA,rB` (R440). -/
  | lhzux (rD rA rB : Reg)
  /-- `lhzx rD,rA,rB` (R441). -/
  | lhzx (rD rA rB : Reg)
  /-- `lmw rD,d(rA)` (R462). -/
  | lmw (rD rA : Reg) (d : BitVec 16)
  /-- `lswi rD,rA,NB` (R464). -/
  | lswi (rD rA : Reg) (nb : BitVec 5)
  /-- `lswx rD,rA,rB` (R465). -/
  | lswx (rD rA rB : Reg)
  /-- `lwarx rD,rA,rB` (R470). -/
  | lwarx (rD rA rB : Reg)
  /-- `lwbrx rD,rA,rB` (R459). -/
  | lwbrx (rD rA rB : Reg)
  /-- `lwz rD,d(rA)` (R442). -/
  | lwz (rD rA : Reg) (d : BitVec 16)
  /-- `lwzu rD,d(rA)` (R443). -/
  | lwzu (rD rA : Reg) (d : BitVec 16)
  /-- `lwzux rD,rA,rB` (R444). -/
  | lwzux (rD rA rB : Reg)
  /-- `lwzx rD,rA,rB` (R445). -/
  | lwzx (rD rA rB : Reg)
  /-- `macchw rD,rA,rB` (R615). -/
  | macchw (rD rA rB : Reg) (oe rc : Bool)
  /-- `macchws rD,rA,rB` (R616). -/
  | macchws (rD rA rB : Reg) (oe rc : Bool)
  /-- `macchwsu rD,rA,rB` (R617). -/
  | macchwsu (rD rA rB : Reg) (oe rc : Bool)
  /-- `macchwu rD,rA,rB` (R618). -/
  | macchwu (rD rA rB : Reg) (oe rc : Bool)
  /-- `machhw rD,rA,rB` (R619). -/
  | machhw (rD rA rB : Reg) (oe rc : Bool)
  /-- `machhws rD,rA,rB` (R620). -/
  | machhws (rD rA rB : Reg) (oe rc : Bool)
  /-- `machhwsu rD,rA,rB` (R621). -/
  | machhwsu (rD rA rB : Reg) (oe rc : Bool)
  /-- `machhwu rD,rA,rB` (R622). -/
  | machhwu (rD rA rB : Reg) (oe rc : Bool)
  /-- `maclhw rD,rA,rB` (R623). -/
  | maclhw (rD rA rB : Reg) (oe rc : Bool)
  /-- `maclhws rD,rA,rB` (R624). -/
  | maclhws (rD rA rB : Reg) (oe rc : Bool)
  /-- `maclhwsu rD,rA,rB` (R625). -/
  | maclhwsu (rD rA rB : Reg) (oe rc : Bool)
  /-- `maclhwu rD,rA,rB` (R626). -/
  | maclhwu (rD rA rB : Reg) (oe rc : Bool)
  /-- `mcrf crfD,crfS` (R396). -/
  | mcrf (crfD crfS : BitVec 3)
  /-- `mcrxr crfD` (R672). -/
  | mcrxr (crfD : BitVec 3)
  /-- `mfcr rD` (R670). -/
  | mfcr (rD : Reg)
  /-- `mfdcr rD,DCRN` (R668). -/
  | mfdcr (rD : Reg) (dcrn : BitVec 10)
  /-- `mfmsr rD` (R664). -/
  | mfmsr (rD : Reg)
  /-- `mfspr rD,SPRN` (R661). -/
  | mfspr (rD : Reg) (sprn : BitVec 10)
  /-- `mftb rD,TBRN` (R663). -/
  | mftb (rD : Reg) (tbrn : BitVec 10)
  /-- `mtcrf CRM,rS` (R671). -/
  | mtcrf (crm : BitVec 8) (rS : Reg)
  /-- `mtdcr DCRN,rS` (R669). -/
  | mtdcr (dcrn : BitVec 10) (rS : Reg)
  /-- `mtmsr rS` (R665). -/
  | mtmsr (rS : Reg)
  /-- `mtspr SPRN,rS` (R662). -/
  | mtspr (sprn : BitVec 10) (rS : Reg)
  /-- `mulchw rD,rA,rB` (R633). -/
  | mulchw (rD rA rB : Reg) (rc : Bool)
  /-- `mulchwu rD,rA,rB` (R634). -/
  | mulchwu (rD rA rB : Reg) (rc : Bool)
  /-- `mulhhw rD,rA,rB` (R635). -/
  | mulhhw (rD rA rB : Reg) (rc : Bool)
  /-- `mulhhwu rD,rA,rB` (R636). -/
  | mulhhwu (rD rA rB : Reg) (rc : Bool)
  /-- `mulhw rD,rA,rB` (R521). -/
  | mulhw (rD rA rB : Reg) (rc : Bool)
  /-- `mulhwu rD,rA,rB` (R522). -/
  | mulhwu (rD rA rB : Reg) (rc : Bool)
  /-- `mullhw rD,rA,rB` (R637). -/
  | mullhw (rD rA rB : Reg) (rc : Bool)
  /-- `mullhwu rD,rA,rB` (R638). -/
  | mullhwu (rD rA rB : Reg) (rc : Bool)
  /-- `mulli rD,rA,SIMM` (R523). -/
  | mulli (rD rA : Reg) (simm : BitVec 16)
  /-- `mullw rD,rA,rB` (R524). -/
  | mullw (rD rA rB : Reg) (oe rc : Bool)
  /-- `nand rA,rS,rB` (R558). -/
  | nand (rA rS rB : Reg) (rc : Bool)
  /-- `neg rD,rA` (R520). -/
  | neg (rD rA : Reg) (oe rc : Bool)
  /-- `nmacchw rD,rA,rB` (R627). -/
  | nmacchw (rD rA rB : Reg) (oe rc : Bool)
  /-- `nmacchws rD,rA,rB` (R628). -/
  | nmacchws (rD rA rB : Reg) (oe rc : Bool)
  /-- `nmachhw rD,rA,rB` (R629). -/
  | nmachhw (rD rA rB : Reg) (oe rc : Bool)
  /-- `nmachhws rD,rA,rB` (R630). -/
  | nmachhws (rD rA rB : Reg) (oe rc : Bool)
  /-- `nmaclhw rD,rA,rB` (R631). -/
  | nmaclhw (rD rA rB : Reg) (oe rc : Bool)
  /-- `nmaclhws rD,rA,rB` (R632). -/
  | nmaclhws (rD rA rB : Reg) (oe rc : Bool)
  /-- `nor rA,rS,rB` (R559). -/
  | nor (rA rS rB : Reg) (rc : Bool)
  /-- `or rA,rS,rB` (R560). -/
  | or (rA rS rB : Reg) (rc : Bool)
  /-- `orc rA,rS,rB` (R561). -/
  | orc (rA rS rB : Reg) (rc : Bool)
  /-- `ori rA,rS,UIMM` (R562). -/
  | ori (rA rS : Reg) (uimm : BitVec 16)
  /-- `oris rA,rS,UIMM` (R563). -/
  | oris (rA rS : Reg) (uimm : BitVec 16)
  /-- `rfci` (R401). -/
  | rfci
  /-- `rfi` (R400). -/
  | rfi
  /-- `rlwimi rA,rS,SH,MB,ME` (R586). -/
  | rlwimi (rA rS : Reg) (sh mb me : BitVec 5) (rc : Bool)
  /-- `rlwinm rA,rS,SH,MB,ME` (R587). -/
  | rlwinm (rA rS : Reg) (sh mb me : BitVec 5) (rc : Bool)
  /-- `rlwnm rA,rS,rB,MB,ME` (R588). -/
  | rlwnm (rA rS rB : Reg) (mb me : BitVec 5) (rc : Bool)
  /-- `sc` (R397). -/
  | sc
  /-- `slw rA,rS,rB` (R590). -/
  | slw (rA rS rB : Reg) (rc : Bool)
  /-- `sraw rA,rS,rB` (R591). -/
  | sraw (rA rS rB : Reg) (rc : Bool)
  /-- `srawi rA,rS,SH` (R592). -/
  | srawi (rA rS : Reg) (sh : BitVec 5) (rc : Bool)
  /-- `srw rA,rS,rB` (R593). -/
  | srw (rA rS rB : Reg) (rc : Bool)
  /-- `stb rS,d(rA)` (R446). -/
  | stb (rS rA : Reg) (d : BitVec 16)
  /-- `stbu rS,d(rA)` (R447). -/
  | stbu (rS rA : Reg) (d : BitVec 16)
  /-- `stbux rS,rA,rB` (R448). -/
  | stbux (rS rA rB : Reg)
  /-- `stbx rS,rA,rB` (R449). -/
  | stbx (rS rA rB : Reg)
  /-- `sth rS,d(rA)` (R450). -/
  | sth (rS rA : Reg) (d : BitVec 16)
  /-- `sthbrx rS,rA,rB` (R460). -/
  | sthbrx (rS rA rB : Reg)
  /-- `sthu rS,d(rA)` (R451). -/
  | sthu (rS rA : Reg) (d : BitVec 16)
  /-- `sthux rS,rA,rB` (R452). -/
  | sthux (rS rA rB : Reg)
  /-- `sthx rS,rA,rB` (R453). -/
  | sthx (rS rA rB : Reg)
  /-- `stmw rS,d(rA)` (R463). -/
  | stmw (rS rA : Reg) (d : BitVec 16)
  /-- `stswi rS,rA,NB` (R466). -/
  | stswi (rS rA : Reg) (nb : BitVec 5)
  /-- `stswx rS,rA,rB` (R467). -/
  | stswx (rS rA rB : Reg)
  /-- `stw rS,d(rA)` (R454). -/
  | stw (rS rA : Reg) (d : BitVec 16)
  /-- `stwbrx rS,rA,rB` (R461). -/
  | stwbrx (rS rA rB : Reg)
  /-- `stwcx. rS,rA,rB` (R471). -/
  | stwcx (rS rA rB : Reg)
  /-- `stwu rS,d(rA)` (R455). -/
  | stwu (rS rA : Reg) (d : BitVec 16)
  /-- `stwux rS,rA,rB` (R456). -/
  | stwux (rS rA rB : Reg)
  /-- `stwx rS,rA,rB` (R457). -/
  | stwx (rS rA rB : Reg)
  /-- `subf rD,rA,rB` (R514). -/
  | subf (rD rA rB : Reg) (oe rc : Bool)
  /-- `subfc rD,rA,rB` (R515). -/
  | subfc (rD rA rB : Reg) (oe rc : Bool)
  /-- `subfe rD,rA,rB` (R516). -/
  | subfe (rD rA rB : Reg) (oe rc : Bool)
  /-- `subfic rD,rA,SIMM` (R517). -/
  | subfic (rD rA : Reg) (simm : BitVec 16)
  /-- `subfme rD,rA` (R518). -/
  | subfme (rD rA : Reg) (oe rc : Bool)
  /-- `subfze rD,rA` (R519). -/
  | subfze (rD rA : Reg) (oe rc : Bool)
  /-- `sync` (R677). -/
  | sync
  /-- `tlbia` (R714). -/
  | tlbia
  /-- `tlbre rD,rA,WS` (R715). -/
  | tlbre (rD rA : Reg) (ws : BitVec 5)
  /-- `tlbsx rD,rA,rB` (R716). -/
  | tlbsx (rD rA rB : Reg) (rc : Bool)
  /-- `tlbsync` (R717). -/
  | tlbsync
  /-- `tlbwe rS,rA,WS` (R718). -/
  | tlbwe (rS rA : Reg) (ws : BitVec 5)
  /-- `tw TO,rA,rB` (R398). -/
  | tw (trapOn : BitVec 5) (rA rB : Reg)
  /-- `twi TO,rA,SIMM` (R399). -/
  | twi (trapOn : BitVec 5) (rA : Reg) (simm : BitVec 16)
  /-- `wrtee rS` (R666). -/
  | wrtee (rS : Reg)
  /-- `wrteei E` (R667). -/
  | wrteei (e : Bool)
  /-- `xor rA,rS,rB` (R564). -/
  | xor (rA rS rB : Reg) (rc : Bool)
  /-- `xori rA,rS,UIMM` (R565). -/
  | xori (rA rS : Reg) (uimm : BitVec 16)
  /-- `xoris rA,rS,UIMM` (R566). -/
  | xoris (rA rS : Reg) (uimm : BitVec 16)
  deriving DecidableEq, Repr

end Sys2Proof
end

