-- ==== Sys2Proof/WellFormed.lean ====
section
/-! DEFINITION. WellFormed.lean: the forms of an instruction that the spec calls valid. What the types of Syntax.lean already
rule out (a register number over 31, a 1 in a reserved bit) needs no check. -/

namespace Sys2Proof

/-- The special-purpose registers that `mfspr` may name (10_state.md R135: every number but the Write-Only 284 and 285).
572 (MCSR) and 888 (CCR1) exist on Virtex-4 only; a number is well formed whatever the device. -/
def readableSprs : List Nat :=
  [1, 8, 9, 26, 27, 256, 260, 261, 262, 263, 272, 273, 274, 275, 276, 277, 278, 279, 287, 572, 888] ++
  [944, 945, 947, 948, 949, 950, 951, 953, 954, 955, 956, 957, 979, 980, 981, 982, 984, 986, 987] ++
  [990, 991, 1008, 1010, 1012, 1013, 1014, 1015, 1018, 1019]

/-- The special-purpose registers that `mtspr` may name (10_state.md R135: every number but the Read-Only 260 to 263, 287 and
979). -/
def writableSprs : List Nat :=
  [1, 8, 9, 26, 27, 256, 272, 273, 274, 275, 276, 277, 278, 279, 284, 285, 572, 888] ++
  [944, 945, 947, 948, 949, 950, 951, 953, 954, 955, 956, 957, 980, 981, 982, 984, 986, 987] ++
  [990, 991, 1008, 1010, 1012, 1013, 1014, 1015, 1018, 1019]

/-- A load with update may not name r0 as its base, nor its own destination (41_load_store.md R422). -/
def updateLoadOk (rD rA : Reg) : Bool := rA != 0#5 && rA != rD

/-- A store with update may not name r0 as its base (41_load_store.md R422). -/
def updateStoreOk (rA : Reg) : Bool := rA != 0#5

/-- How many registers a string of `nb` bytes takes, `nb = 0` meaning 32 bytes (41_load_store.md R464). -/
def stringRegs (nb : BitVec 5) : Nat := ((if nb = 0#5 then 32 else nb.toNat) + 3) / 4

/-- Whether an instruction is of a valid form: the invalid forms of 93_implementation_defined.md U21 (update forms), U22
(`lmw`, `lswi`; that of `lswx` depends on XER[TBC] and is no matter of syntax), U23 (`bcctr` with BO[2] = 0), U24 (SPR and
TBR numbers) and U25 (WS greater than 1) are not. Every constructor is named. -/
def Instr.wellFormed : Instr → Bool
  | .add _ _ _ _ _ => true
  | .addc _ _ _ _ _ => true
  | .adde _ _ _ _ _ => true
  | .addi _ _ _ => true
  | .addic _ _ _ => true
  | .addicDot _ _ _ => true
  | .addis _ _ _ => true
  | .addme _ _ _ _ => true
  | .addze _ _ _ _ => true
  | .and _ _ _ _ => true
  | .andc _ _ _ _ => true
  | .andiDot _ _ _ => true
  | .andisDot _ _ _ => true
  | .b _ _ _ => true
  | .bc _ _ _ _ _ => true
  | .bcctr bo _ _ => bo.getLsbD 2
  | .bclr _ _ _ => true
  | .cmp _ _ _ => true
  | .cmpi _ _ _ => true
  | .cmpl _ _ _ => true
  | .cmpli _ _ _ => true
  | .cntlzw _ _ _ => true
  | .crand _ _ _ => true
  | .crandc _ _ _ => true
  | .creqv _ _ _ => true
  | .crnand _ _ _ => true
  | .crnor _ _ _ => true
  | .cror _ _ _ => true
  | .crorc _ _ _ => true
  | .crxor _ _ _ => true
  | .dcba _ _ => true
  | .dcbf _ _ => true
  | .dcbi _ _ => true
  | .dcbst _ _ => true
  | .dcbt _ _ => true
  | .dcbtst _ _ => true
  | .dcbz _ _ => true
  | .dccci _ _ => true
  | .dcread _ _ _ => true
  | .divw _ _ _ _ _ => true
  | .divwu _ _ _ _ _ => true
  | .eieio => true
  | .eqv _ _ _ _ => true
  | .extsb _ _ _ => true
  | .extsh _ _ _ => true
  | .icbi _ _ => true
  | .icbt _ _ => true
  | .iccci _ _ => true
  | .icread _ _ => true
  | .isync => true
  | .lbz _ _ _ => true
  | .lbzu rD rA _ => updateLoadOk rD rA
  | .lbzux rD rA _ => updateLoadOk rD rA
  | .lbzx _ _ _ => true
  | .lha _ _ _ => true
  | .lhau rD rA _ => updateLoadOk rD rA
  | .lhaux rD rA _ => updateLoadOk rD rA
  | .lhax _ _ _ => true
  | .lhbrx _ _ _ => true
  | .lhz _ _ _ => true
  | .lhzu rD rA _ => updateLoadOk rD rA
  | .lhzux rD rA _ => updateLoadOk rD rA
  | .lhzx _ _ _ => true
  | .lmw rD rA _ => decide (rA.toNat < rD.toNat)
  | .lswi rD rA nb => decide (stringRegs nb ≤ (rA - rD).toNat)
  | .lswx _ _ _ => true
  | .lwarx _ _ _ => true
  | .lwbrx _ _ _ => true
  | .lwz _ _ _ => true
  | .lwzu rD rA _ => updateLoadOk rD rA
  | .lwzux rD rA _ => updateLoadOk rD rA
  | .lwzx _ _ _ => true
  | .macchw _ _ _ _ _ => true
  | .macchws _ _ _ _ _ => true
  | .macchwsu _ _ _ _ _ => true
  | .macchwu _ _ _ _ _ => true
  | .machhw _ _ _ _ _ => true
  | .machhws _ _ _ _ _ => true
  | .machhwsu _ _ _ _ _ => true
  | .machhwu _ _ _ _ _ => true
  | .maclhw _ _ _ _ _ => true
  | .maclhws _ _ _ _ _ => true
  | .maclhwsu _ _ _ _ _ => true
  | .maclhwu _ _ _ _ _ => true
  | .mcrf _ _ => true
  | .mcrxr _ => true
  | .mfcr _ => true
  | .mfdcr _ _ => true
  | .mfmsr _ => true
  | .mfspr _ sprn => readableSprs.contains sprn.toNat
  | .mftb _ tbrn => tbrn == 268#10 || tbrn == 269#10
  | .mtcrf _ _ => true
  | .mtdcr _ _ => true
  | .mtmsr _ => true
  | .mtspr sprn _ => writableSprs.contains sprn.toNat
  | .mulchw _ _ _ _ => true
  | .mulchwu _ _ _ _ => true
  | .mulhhw _ _ _ _ => true
  | .mulhhwu _ _ _ _ => true
  | .mulhw _ _ _ _ => true
  | .mulhwu _ _ _ _ => true
  | .mullhw _ _ _ _ => true
  | .mullhwu _ _ _ _ => true
  | .mulli _ _ _ => true
  | .mullw _ _ _ _ _ => true
  | .nand _ _ _ _ => true
  | .neg _ _ _ _ => true
  | .nmacchw _ _ _ _ _ => true
  | .nmacchws _ _ _ _ _ => true
  | .nmachhw _ _ _ _ _ => true
  | .nmachhws _ _ _ _ _ => true
  | .nmaclhw _ _ _ _ _ => true
  | .nmaclhws _ _ _ _ _ => true
  | .nor _ _ _ _ => true
  | .or _ _ _ _ => true
  | .orc _ _ _ _ => true
  | .ori _ _ _ => true
  | .oris _ _ _ => true
  | .rfci => true
  | .rfi => true
  | .rlwimi _ _ _ _ _ _ => true
  | .rlwinm _ _ _ _ _ _ => true
  | .rlwnm _ _ _ _ _ _ => true
  | .sc => true
  | .slw _ _ _ _ => true
  | .sraw _ _ _ _ => true
  | .srawi _ _ _ _ => true
  | .srw _ _ _ _ => true
  | .stb _ _ _ => true
  | .stbu _ rA _ => updateStoreOk rA
  | .stbux _ rA _ => updateStoreOk rA
  | .stbx _ _ _ => true
  | .sth _ _ _ => true
  | .sthbrx _ _ _ => true
  | .sthu _ rA _ => updateStoreOk rA
  | .sthux _ rA _ => updateStoreOk rA
  | .sthx _ _ _ => true
  | .stmw _ _ _ => true
  | .stswi _ _ _ => true
  | .stswx _ _ _ => true
  | .stw _ _ _ => true
  | .stwbrx _ _ _ => true
  | .stwcx _ _ _ => true
  | .stwu _ rA _ => updateStoreOk rA
  | .stwux _ rA _ => updateStoreOk rA
  | .stwx _ _ _ => true
  | .subf _ _ _ _ _ => true
  | .subfc _ _ _ _ _ => true
  | .subfe _ _ _ _ _ => true
  | .subfic _ _ _ => true
  | .subfme _ _ _ _ => true
  | .subfze _ _ _ _ => true
  | .sync => true
  | .tlbia => true
  | .tlbre _ _ ws => decide (ws.toNat ≤ 1)
  | .tlbsx _ _ _ _ => true
  | .tlbsync => true
  | .tlbwe _ _ ws => decide (ws.toNat ≤ 1)
  | .tw _ _ _ => true
  | .twi _ _ _ => true
  | .wrtee _ => true
  | .wrteei _ => true
  | .xor _ _ _ _ => true
  | .xori _ _ _ => true
  | .xoris _ _ _ => true

end Sys2Proof
end

