-- ==== Sys2Proof/Decode.lean ====
section
/-! DEFINITION. Decode.lean: the decoder (total on every word), the encoder written from the same layouts, and
decodeTableWord. Bits are named as 30_encoding.md R280 does: field [a:b] of a word w is its low-order bits from 31 - b on. -/

namespace Sys2Proof

/-- What a word stands for. -/
inductive Decoded where
  /-- A valid encoding of an instruction. -/
  | ok (i : Instr)
  /-- No row of the opcode table matches: executing it raises the illegal-instruction program exception (R313). -/
  | illegal
  /-- A row matches, but a reserved bit is 1: an invalid form, whose result the spec calls boundedly undefined (R295, R316,
  93_implementation_defined.md U20). -/
  | reservedBits
  deriving DecidableEq, Repr

/-- Instruction bits 6:10 (rD, rS, TO, BO, crbD, crfD ‖ reserved). -/
def fldA (w : Word) : BitVec 5 := w.extractLsb' 21 5
/-- Instruction bits 11:15 (rA, BI, crbA, the low-order half of a split field, R289). -/
def fldB (w : Word) : BitVec 5 := w.extractLsb' 16 5
/-- Instruction bits 16:20 (rB, crbB, SH, NB, WS, the high-order half of a split field). -/
def fldC (w : Word) : BitVec 5 := w.extractLsb' 11 5
/-- Instruction bits 21:30, the extended opcode (with OE as its first bit in the XO form). -/
def fldXo (w : Word) : BitVec 10 := w.extractLsb' 1 10
/-- Instruction bit 31 (Rc, LK, or reserved). -/
def fldRc (w : Word) : Bool := w.extractLsb' 0 1 == 1#1
/-- Instruction bit 30 (AA; the fixed 1 of `sc`). -/
def fldAa (w : Word) : Bool := w.extractLsb' 1 1 == 1#1
/-- Instruction bits 16:31 (SIMM, UIMM, d). -/
def fldImm (w : Word) : BitVec 16 := w.extractLsb' 0 16

/-- The instruction `i` if its reserved bits are as `p` asks, an invalid form otherwise (R295). -/
def need (p : Bool) (i : Instr) : Decoded := if p then .ok i else .reservedBits

/-- X, XL, XO and XFX layout: opcode, three 5-bit fields, 10-bit extended opcode, bit 31 (R286 to R290). -/
def encX (opcd : BitVec 6) (a b c : BitVec 5) (xo : BitVec 10) (rc : Bool) : Word :=
  opcd ++ a ++ b ++ c ++ xo ++ BitVec.ofBool rc
/-- D layout: opcode, two 5-bit fields, 16-bit immediate (R285). -/
def encD (opcd : BitVec 6) (a b : BitVec 5) (imm : BitVec 16) : Word := opcd ++ a ++ b ++ imm
/-- I layout, and the SC layout read as opcode, 24 bits, bit 30, bit 31 (R282, R284). -/
def encI (opcd : BitVec 6) (li : BitVec 24) (aa lk : Bool) : Word :=
  opcd ++ li ++ BitVec.ofBool aa ++ BitVec.ofBool lk
/-- B layout (R283). -/
def encB (opcd : BitVec 6) (bo bi : BitVec 5) (bd : BitVec 14) (aa lk : Bool) : Word :=
  opcd ++ bo ++ bi ++ bd ++ BitVec.ofBool aa ++ BitVec.ofBool lk
/-- M layout (R291). -/
def encM (opcd : BitVec 6) (a b c mb me : BitVec 5) (rc : Bool) : Word :=
  opcd ++ a ++ b ++ c ++ mb ++ me ++ BitVec.ofBool rc


/-- Primary opcode 4: the multiply-accumulate and multiply-halfword instructions, by instruction bits 21:30
(30_encoding.md R298; an XO-form instruction takes two slots, OE = 0 and OE = 1, R290). -/
def decode4 (xo : Nat) (a b c : BitVec 5) (rc : Bool) : Decoded :=
  match xo with
  | 8 => .ok (.mulhhwu a b c rc)
  | 12 => .ok (.machhwu a b c false rc)
  | 40 => .ok (.mulhhw a b c rc)
  | 44 => .ok (.machhw a b c false rc)
  | 46 => .ok (.nmachhw a b c false rc)
  | 76 => .ok (.machhwsu a b c false rc)
  | 108 => .ok (.machhws a b c false rc)
  | 110 => .ok (.nmachhws a b c false rc)
  | 136 => .ok (.mulchwu a b c rc)
  | 140 => .ok (.macchwu a b c false rc)
  | 168 => .ok (.mulchw a b c rc)
  | 172 => .ok (.macchw a b c false rc)
  | 174 => .ok (.nmacchw a b c false rc)
  | 204 => .ok (.macchwsu a b c false rc)
  | 236 => .ok (.macchws a b c false rc)
  | 238 => .ok (.nmacchws a b c false rc)
  | 392 => .ok (.mullhwu a b c rc)
  | 396 => .ok (.maclhwu a b c false rc)
  | 424 => .ok (.mullhw a b c rc)
  | 428 => .ok (.maclhw a b c false rc)
  | 430 => .ok (.nmaclhw a b c false rc)
  | 460 => .ok (.maclhwsu a b c false rc)
  | 492 => .ok (.maclhws a b c false rc)
  | 494 => .ok (.nmaclhws a b c false rc)
  | 524 => .ok (.machhwu a b c true rc)
  | 556 => .ok (.machhw a b c true rc)
  | 558 => .ok (.nmachhw a b c true rc)
  | 588 => .ok (.machhwsu a b c true rc)
  | 620 => .ok (.machhws a b c true rc)
  | 622 => .ok (.nmachhws a b c true rc)
  | 652 => .ok (.macchwu a b c true rc)
  | 684 => .ok (.macchw a b c true rc)
  | 686 => .ok (.nmacchw a b c true rc)
  | 716 => .ok (.macchwsu a b c true rc)
  | 748 => .ok (.macchws a b c true rc)
  | 750 => .ok (.nmacchws a b c true rc)
  | 908 => .ok (.maclhwu a b c true rc)
  | 940 => .ok (.maclhw a b c true rc)
  | 942 => .ok (.nmaclhw a b c true rc)
  | 972 => .ok (.maclhwsu a b c true rc)
  | 1004 => .ok (.maclhws a b c true rc)
  | 1006 => .ok (.nmaclhws a b c true rc)
  | _ => .illegal

/-- Primary opcode 19: the XL form, by instruction bits 21:30 (30_encoding.md R287, R299). -/
def decode19 (xo : Nat) (a b c : BitVec 5) (rc : Bool) : Decoded :=
  match xo with
  | 0 => need (a.extractLsb' 0 2 == 0#2 && b.extractLsb' 0 2 == 0#2 && c == 0#5 && !rc) (.mcrf (a.extractLsb' 2 3) (b.extractLsb' 2 3))
  | 16 => need (c == 0#5) (.bclr a b rc)
  | 33 => need (!rc) (.crnor a b c)
  | 50 => need (a == 0#5 && b == 0#5 && c == 0#5 && !rc) .rfi
  | 51 => need (a == 0#5 && b == 0#5 && c == 0#5 && !rc) .rfci
  | 129 => need (!rc) (.crandc a b c)
  | 150 => need (a == 0#5 && b == 0#5 && c == 0#5 && !rc) .isync
  | 193 => need (!rc) (.crxor a b c)
  | 225 => need (!rc) (.crnand a b c)
  | 257 => need (!rc) (.crand a b c)
  | 289 => need (!rc) (.creqv a b c)
  | 417 => need (!rc) (.crorc a b c)
  | 449 => need (!rc) (.cror a b c)
  | 528 => need (c == 0#5) (.bcctr a b rc)
  | _ => .illegal

/-- Primary opcode 31, by instruction bits 21:30 (30_encoding.md R286, R288, R290, R300, R301). -/
def decode31 (xo : Nat) (a b c : BitVec 5) (rc : Bool) : Decoded :=
  match xo with
  | 0 => need (a.extractLsb' 0 2 == 0#2 && !rc) (.cmp (a.extractLsb' 2 3) b c)
  | 4 => need (!rc) (.tw a b c)
  | 8 => .ok (.subfc a b c false rc)
  | 10 => .ok (.addc a b c false rc)
  | 11 => .ok (.mulhwu a b c rc)
  | 19 => need (b == 0#5 && c == 0#5 && !rc) (.mfcr a)
  | 20 => need (!rc) (.lwarx a b c)
  | 23 => need (!rc) (.lwzx a b c)
  | 24 => .ok (.slw b a c rc)
  | 26 => need (c == 0#5) (.cntlzw b a rc)
  | 28 => .ok (.and b a c rc)
  | 32 => need (a.extractLsb' 0 2 == 0#2 && !rc) (.cmpl (a.extractLsb' 2 3) b c)
  | 40 => .ok (.subf a b c false rc)
  | 54 => need (a == 0#5 && !rc) (.dcbst b c)
  | 55 => need (!rc) (.lwzux a b c)
  | 60 => .ok (.andc b a c rc)
  | 75 => .ok (.mulhw a b c rc)
  | 83 => need (b == 0#5 && c == 0#5 && !rc) (.mfmsr a)
  | 86 => need (a == 0#5 && !rc) (.dcbf b c)
  | 87 => need (!rc) (.lbzx a b c)
  | 104 => need (c == 0#5) (.neg a b false rc)
  | 119 => need (!rc) (.lbzux a b c)
  | 124 => .ok (.nor b a c rc)
  | 131 => need (b == 0#5 && c == 0#5 && !rc) (.wrtee a)
  | 136 => .ok (.subfe a b c false rc)
  | 138 => .ok (.adde a b c false rc)
  | 144 => need (b.extractLsb' 4 1 == 0#1 && c.extractLsb' 0 1 == 0#1 && !rc) (.mtcrf (b.extractLsb' 0 4 ++ c.extractLsb' 1 4) a)
  | 146 => need (b == 0#5 && c == 0#5 && !rc) (.mtmsr a)
  | 150 => if rc then .ok (.stwcx a b c) else .illegal
  | 151 => need (!rc) (.stwx a b c)
  | 163 => need (c.extractLsb' 0 4 == 0#4 && a == 0#5 && b == 0#5 && !rc) (.wrteei (c.extractLsb' 4 1 == 1#1))
  | 183 => need (!rc) (.stwux a b c)
  | 200 => need (c == 0#5) (.subfze a b false rc)
  | 202 => need (c == 0#5) (.addze a b false rc)
  | 215 => need (!rc) (.stbx a b c)
  | 232 => need (c == 0#5) (.subfme a b false rc)
  | 234 => need (c == 0#5) (.addme a b false rc)
  | 235 => .ok (.mullw a b c false rc)
  | 246 => need (a == 0#5 && !rc) (.dcbtst b c)
  | 247 => need (!rc) (.stbux a b c)
  | 262 => need (a == 0#5 && !rc) (.icbt b c)
  | 266 => .ok (.add a b c false rc)
  | 278 => need (a == 0#5 && !rc) (.dcbt b c)
  | 279 => need (!rc) (.lhzx a b c)
  | 284 => .ok (.eqv b a c rc)
  | 311 => need (!rc) (.lhzux a b c)
  | 316 => .ok (.xor b a c rc)
  | 323 => need (!rc) (.mfdcr a (c ++ b))
  | 339 => need (!rc) (.mfspr a (c ++ b))
  | 343 => need (!rc) (.lhax a b c)
  | 370 => need (a == 0#5 && b == 0#5 && c == 0#5 && !rc) .tlbia
  | 371 => need (!rc) (.mftb a (c ++ b))
  | 375 => need (!rc) (.lhaux a b c)
  | 407 => need (!rc) (.sthx a b c)
  | 412 => .ok (.orc b a c rc)
  | 439 => need (!rc) (.sthux a b c)
  | 444 => .ok (.or b a c rc)
  | 451 => need (!rc) (.mtdcr (c ++ b) a)
  | 454 => need (a == 0#5 && !rc) (.dccci b c)
  | 459 => .ok (.divwu a b c false rc)
  | 467 => need (!rc) (.mtspr (c ++ b) a)
  | 470 => need (a == 0#5 && !rc) (.dcbi b c)
  | 476 => .ok (.nand b a c rc)
  | 486 => need (!rc) (.dcread a b c)
  | 491 => .ok (.divw a b c false rc)
  | 512 => need (a.extractLsb' 0 2 == 0#2 && b == 0#5 && c == 0#5 && !rc) (.mcrxr (a.extractLsb' 2 3))
  | 520 => .ok (.subfc a b c true rc)
  | 522 => .ok (.addc a b c true rc)
  | 523 => .reservedBits
  | 533 => need (!rc) (.lswx a b c)
  | 534 => need (!rc) (.lwbrx a b c)
  | 536 => .ok (.srw b a c rc)
  | 552 => .ok (.subf a b c true rc)
  | 566 => need (a == 0#5 && b == 0#5 && c == 0#5 && !rc) .tlbsync
  | 587 => .reservedBits
  | 597 => need (!rc) (.lswi a b c)
  | 598 => need (a == 0#5 && b == 0#5 && c == 0#5 && !rc) .sync
  | 616 => need (c == 0#5) (.neg a b true rc)
  | 648 => .ok (.subfe a b c true rc)
  | 650 => .ok (.adde a b c true rc)
  | 661 => need (!rc) (.stswx a b c)
  | 662 => need (!rc) (.stwbrx a b c)
  | 712 => need (c == 0#5) (.subfze a b true rc)
  | 714 => need (c == 0#5) (.addze a b true rc)
  | 725 => need (!rc) (.stswi a b c)
  | 744 => need (c == 0#5) (.subfme a b true rc)
  | 746 => need (c == 0#5) (.addme a b true rc)
  | 747 => .ok (.mullw a b c true rc)
  | 758 => need (a == 0#5 && !rc) (.dcba b c)
  | 778 => .ok (.add a b c true rc)
  | 790 => need (!rc) (.lhbrx a b c)
  | 792 => .ok (.sraw b a c rc)
  | 824 => .ok (.srawi b a c rc)
  | 854 => need (a == 0#5 && b == 0#5 && c == 0#5 && !rc) .eieio
  | 914 => .ok (.tlbsx a b c rc)
  | 918 => need (!rc) (.sthbrx a b c)
  | 922 => need (c == 0#5) (.extsh b a rc)
  | 946 => need (!rc) (.tlbre a b c)
  | 954 => need (c == 0#5) (.extsb b a rc)
  | 966 => need (a == 0#5 && !rc) (.iccci b c)
  | 971 => .ok (.divwu a b c true rc)
  | 978 => need (!rc) (.tlbwe a b c)
  | 982 => need (a == 0#5 && !rc) (.icbi b c)
  | 998 => need (a == 0#5 && !rc) (.icread b c)
  | 1003 => .ok (.divw a b c true rc)
  | 1014 => need (a == 0#5 && !rc) (.dcbz b c)
  | _ => .illegal

/-- The instruction a word stands for, total on all words (30_encoding.md R297 to R301): a word that no row of the opcode
table matches is illegal (R313), and one that matches a row but has a 1 in a reserved bit is an invalid form (R295, R316). -/
def decode (w : Word) : Decoded :=
  match (w.extractLsb' 26 6).toNat with
  | 3 => .ok (.twi (fldA w) (fldB w) (fldImm w))
  | 4 => decode4 (fldXo w).toNat (fldA w) (fldB w) (fldC w) (fldRc w)
  | 7 => .ok (.mulli (fldA w) (fldB w) (fldImm w))
  | 8 => .ok (.subfic (fldA w) (fldB w) (fldImm w))
  | 10 => need ((fldA w).extractLsb' 0 2 == 0#2) (.cmpli ((fldA w).extractLsb' 2 3) (fldB w) (fldImm w))
  | 11 => need ((fldA w).extractLsb' 0 2 == 0#2) (.cmpi ((fldA w).extractLsb' 2 3) (fldB w) (fldImm w))
  | 12 => .ok (.addic (fldA w) (fldB w) (fldImm w))
  | 13 => .ok (.addicDot (fldA w) (fldB w) (fldImm w))
  | 14 => .ok (.addi (fldA w) (fldB w) (fldImm w))
  | 15 => .ok (.addis (fldA w) (fldB w) (fldImm w))
  | 16 => .ok (.bc (fldA w) (fldB w) (w.extractLsb' 2 14) (fldAa w) (fldRc w))
  | 17 => if fldAa w then need (w.extractLsb' 2 24 == 0#24 && !fldRc w) .sc else .illegal
  | 18 => .ok (.b (w.extractLsb' 2 24) (fldAa w) (fldRc w))
  | 19 => decode19 (fldXo w).toNat (fldA w) (fldB w) (fldC w) (fldRc w)
  | 20 => .ok (.rlwimi (fldB w) (fldA w) (fldC w) (w.extractLsb' 6 5) (w.extractLsb' 1 5) (fldRc w))
  | 21 => .ok (.rlwinm (fldB w) (fldA w) (fldC w) (w.extractLsb' 6 5) (w.extractLsb' 1 5) (fldRc w))
  | 23 => .ok (.rlwnm (fldB w) (fldA w) (fldC w) (w.extractLsb' 6 5) (w.extractLsb' 1 5) (fldRc w))
  | 24 => .ok (.ori (fldB w) (fldA w) (fldImm w))
  | 25 => .ok (.oris (fldB w) (fldA w) (fldImm w))
  | 26 => .ok (.xori (fldB w) (fldA w) (fldImm w))
  | 27 => .ok (.xoris (fldB w) (fldA w) (fldImm w))
  | 28 => .ok (.andiDot (fldB w) (fldA w) (fldImm w))
  | 29 => .ok (.andisDot (fldB w) (fldA w) (fldImm w))
  | 31 => decode31 (fldXo w).toNat (fldA w) (fldB w) (fldC w) (fldRc w)
  | 32 => .ok (.lwz (fldA w) (fldB w) (fldImm w))
  | 33 => .ok (.lwzu (fldA w) (fldB w) (fldImm w))
  | 34 => .ok (.lbz (fldA w) (fldB w) (fldImm w))
  | 35 => .ok (.lbzu (fldA w) (fldB w) (fldImm w))
  | 36 => .ok (.stw (fldA w) (fldB w) (fldImm w))
  | 37 => .ok (.stwu (fldA w) (fldB w) (fldImm w))
  | 38 => .ok (.stb (fldA w) (fldB w) (fldImm w))
  | 39 => .ok (.stbu (fldA w) (fldB w) (fldImm w))
  | 40 => .ok (.lhz (fldA w) (fldB w) (fldImm w))
  | 41 => .ok (.lhzu (fldA w) (fldB w) (fldImm w))
  | 42 => .ok (.lha (fldA w) (fldB w) (fldImm w))
  | 43 => .ok (.lhau (fldA w) (fldB w) (fldImm w))
  | 44 => .ok (.sth (fldA w) (fldB w) (fldImm w))
  | 45 => .ok (.sthu (fldA w) (fldB w) (fldImm w))
  | 46 => .ok (.lmw (fldA w) (fldB w) (fldImm w))
  | 47 => .ok (.stmw (fldA w) (fldB w) (fldImm w))
  | _ => .illegal

/-- The word of an instruction, with every reserved bit 0, from the layouts of its format (30_encoding.md R282 to R291). -/
def encode : Instr → Word
  | .add rD rA rB oe rc => encX 31#6 rD rA rB (BitVec.ofBool oe ++ 266#9) rc
  | .addc rD rA rB oe rc => encX 31#6 rD rA rB (BitVec.ofBool oe ++ 10#9) rc
  | .adde rD rA rB oe rc => encX 31#6 rD rA rB (BitVec.ofBool oe ++ 138#9) rc
  | .addi rD rA simm => encD 14#6 rD rA simm
  | .addic rD rA simm => encD 12#6 rD rA simm
  | .addicDot rD rA simm => encD 13#6 rD rA simm
  | .addis rD rA simm => encD 15#6 rD rA simm
  | .addme rD rA oe rc => encX 31#6 rD rA 0#5 (BitVec.ofBool oe ++ 234#9) rc
  | .addze rD rA oe rc => encX 31#6 rD rA 0#5 (BitVec.ofBool oe ++ 202#9) rc
  | .and rA rS rB rc => encX 31#6 rS rA rB 28#10 rc
  | .andc rA rS rB rc => encX 31#6 rS rA rB 60#10 rc
  | .andiDot rA rS uimm => encD 28#6 rS rA uimm
  | .andisDot rA rS uimm => encD 29#6 rS rA uimm
  | .b li aa lk => encI 18#6 li aa lk
  | .bc bo bi bd aa lk => encB 16#6 bo bi bd aa lk
  | .bcctr bo bi lk => encX 19#6 bo bi 0#5 528#10 lk
  | .bclr bo bi lk => encX 19#6 bo bi 0#5 16#10 lk
  | .cmp crfD rA rB => encX 31#6 (crfD ++ 0#2) rA rB 0#10 false
  | .cmpi crfD rA simm => encD 11#6 (crfD ++ 0#2) rA simm
  | .cmpl crfD rA rB => encX 31#6 (crfD ++ 0#2) rA rB 32#10 false
  | .cmpli crfD rA uimm => encD 10#6 (crfD ++ 0#2) rA uimm
  | .cntlzw rA rS rc => encX 31#6 rS rA 0#5 26#10 rc
  | .crand crbD crbA crbB => encX 19#6 crbD crbA crbB 257#10 false
  | .crandc crbD crbA crbB => encX 19#6 crbD crbA crbB 129#10 false
  | .creqv crbD crbA crbB => encX 19#6 crbD crbA crbB 289#10 false
  | .crnand crbD crbA crbB => encX 19#6 crbD crbA crbB 225#10 false
  | .crnor crbD crbA crbB => encX 19#6 crbD crbA crbB 33#10 false
  | .cror crbD crbA crbB => encX 19#6 crbD crbA crbB 449#10 false
  | .crorc crbD crbA crbB => encX 19#6 crbD crbA crbB 417#10 false
  | .crxor crbD crbA crbB => encX 19#6 crbD crbA crbB 193#10 false
  | .dcba rA rB => encX 31#6 0#5 rA rB 758#10 false
  | .dcbf rA rB => encX 31#6 0#5 rA rB 86#10 false
  | .dcbi rA rB => encX 31#6 0#5 rA rB 470#10 false
  | .dcbst rA rB => encX 31#6 0#5 rA rB 54#10 false
  | .dcbt rA rB => encX 31#6 0#5 rA rB 278#10 false
  | .dcbtst rA rB => encX 31#6 0#5 rA rB 246#10 false
  | .dcbz rA rB => encX 31#6 0#5 rA rB 1014#10 false
  | .dccci rA rB => encX 31#6 0#5 rA rB 454#10 false
  | .dcread rD rA rB => encX 31#6 rD rA rB 486#10 false
  | .divw rD rA rB oe rc => encX 31#6 rD rA rB (BitVec.ofBool oe ++ 491#9) rc
  | .divwu rD rA rB oe rc => encX 31#6 rD rA rB (BitVec.ofBool oe ++ 459#9) rc
  | .eieio => encX 31#6 0#5 0#5 0#5 854#10 false
  | .eqv rA rS rB rc => encX 31#6 rS rA rB 284#10 rc
  | .extsb rA rS rc => encX 31#6 rS rA 0#5 954#10 rc
  | .extsh rA rS rc => encX 31#6 rS rA 0#5 922#10 rc
  | .icbi rA rB => encX 31#6 0#5 rA rB 982#10 false
  | .icbt rA rB => encX 31#6 0#5 rA rB 262#10 false
  | .iccci rA rB => encX 31#6 0#5 rA rB 966#10 false
  | .icread rA rB => encX 31#6 0#5 rA rB 998#10 false
  | .isync => encX 19#6 0#5 0#5 0#5 150#10 false
  | .lbz rD rA d => encD 34#6 rD rA d
  | .lbzu rD rA d => encD 35#6 rD rA d
  | .lbzux rD rA rB => encX 31#6 rD rA rB 119#10 false
  | .lbzx rD rA rB => encX 31#6 rD rA rB 87#10 false
  | .lha rD rA d => encD 42#6 rD rA d
  | .lhau rD rA d => encD 43#6 rD rA d
  | .lhaux rD rA rB => encX 31#6 rD rA rB 375#10 false
  | .lhax rD rA rB => encX 31#6 rD rA rB 343#10 false
  | .lhbrx rD rA rB => encX 31#6 rD rA rB 790#10 false
  | .lhz rD rA d => encD 40#6 rD rA d
  | .lhzu rD rA d => encD 41#6 rD rA d
  | .lhzux rD rA rB => encX 31#6 rD rA rB 311#10 false
  | .lhzx rD rA rB => encX 31#6 rD rA rB 279#10 false
  | .lmw rD rA d => encD 46#6 rD rA d
  | .lswi rD rA nb => encX 31#6 rD rA nb 597#10 false
  | .lswx rD rA rB => encX 31#6 rD rA rB 533#10 false
  | .lwarx rD rA rB => encX 31#6 rD rA rB 20#10 false
  | .lwbrx rD rA rB => encX 31#6 rD rA rB 534#10 false
  | .lwz rD rA d => encD 32#6 rD rA d
  | .lwzu rD rA d => encD 33#6 rD rA d
  | .lwzux rD rA rB => encX 31#6 rD rA rB 55#10 false
  | .lwzx rD rA rB => encX 31#6 rD rA rB 23#10 false
  | .macchw rD rA rB oe rc => encX 4#6 rD rA rB (BitVec.ofBool oe ++ 172#9) rc
  | .macchws rD rA rB oe rc => encX 4#6 rD rA rB (BitVec.ofBool oe ++ 236#9) rc
  | .macchwsu rD rA rB oe rc => encX 4#6 rD rA rB (BitVec.ofBool oe ++ 204#9) rc
  | .macchwu rD rA rB oe rc => encX 4#6 rD rA rB (BitVec.ofBool oe ++ 140#9) rc
  | .machhw rD rA rB oe rc => encX 4#6 rD rA rB (BitVec.ofBool oe ++ 44#9) rc
  | .machhws rD rA rB oe rc => encX 4#6 rD rA rB (BitVec.ofBool oe ++ 108#9) rc
  | .machhwsu rD rA rB oe rc => encX 4#6 rD rA rB (BitVec.ofBool oe ++ 76#9) rc
  | .machhwu rD rA rB oe rc => encX 4#6 rD rA rB (BitVec.ofBool oe ++ 12#9) rc
  | .maclhw rD rA rB oe rc => encX 4#6 rD rA rB (BitVec.ofBool oe ++ 428#9) rc
  | .maclhws rD rA rB oe rc => encX 4#6 rD rA rB (BitVec.ofBool oe ++ 492#9) rc
  | .maclhwsu rD rA rB oe rc => encX 4#6 rD rA rB (BitVec.ofBool oe ++ 460#9) rc
  | .maclhwu rD rA rB oe rc => encX 4#6 rD rA rB (BitVec.ofBool oe ++ 396#9) rc
  | .mcrf crfD crfS => encX 19#6 (crfD ++ 0#2) (crfS ++ 0#2) 0#5 0#10 false
  | .mcrxr crfD => encX 31#6 (crfD ++ 0#2) 0#5 0#5 512#10 false
  | .mfcr rD => encX 31#6 rD 0#5 0#5 19#10 false
  | .mfdcr rD dcrn => encX 31#6 rD (dcrn.extractLsb' 0 5) (dcrn.extractLsb' 5 5) 323#10 false
  | .mfmsr rD => encX 31#6 rD 0#5 0#5 83#10 false
  | .mfspr rD sprn => encX 31#6 rD (sprn.extractLsb' 0 5) (sprn.extractLsb' 5 5) 339#10 false
  | .mftb rD tbrn => encX 31#6 rD (tbrn.extractLsb' 0 5) (tbrn.extractLsb' 5 5) 371#10 false
  | .mtcrf crm rS => encX 31#6 rS (0#1 ++ crm.extractLsb' 4 4) (crm.extractLsb' 0 4 ++ 0#1) 144#10 false
  | .mtdcr dcrn rS => encX 31#6 rS (dcrn.extractLsb' 0 5) (dcrn.extractLsb' 5 5) 451#10 false
  | .mtmsr rS => encX 31#6 rS 0#5 0#5 146#10 false
  | .mtspr sprn rS => encX 31#6 rS (sprn.extractLsb' 0 5) (sprn.extractLsb' 5 5) 467#10 false
  | .mulchw rD rA rB rc => encX 4#6 rD rA rB 168#10 rc
  | .mulchwu rD rA rB rc => encX 4#6 rD rA rB 136#10 rc
  | .mulhhw rD rA rB rc => encX 4#6 rD rA rB 40#10 rc
  | .mulhhwu rD rA rB rc => encX 4#6 rD rA rB 8#10 rc
  | .mulhw rD rA rB rc => encX 31#6 rD rA rB 75#10 rc
  | .mulhwu rD rA rB rc => encX 31#6 rD rA rB 11#10 rc
  | .mullhw rD rA rB rc => encX 4#6 rD rA rB 424#10 rc
  | .mullhwu rD rA rB rc => encX 4#6 rD rA rB 392#10 rc
  | .mulli rD rA simm => encD 7#6 rD rA simm
  | .mullw rD rA rB oe rc => encX 31#6 rD rA rB (BitVec.ofBool oe ++ 235#9) rc
  | .nand rA rS rB rc => encX 31#6 rS rA rB 476#10 rc
  | .neg rD rA oe rc => encX 31#6 rD rA 0#5 (BitVec.ofBool oe ++ 104#9) rc
  | .nmacchw rD rA rB oe rc => encX 4#6 rD rA rB (BitVec.ofBool oe ++ 174#9) rc
  | .nmacchws rD rA rB oe rc => encX 4#6 rD rA rB (BitVec.ofBool oe ++ 238#9) rc
  | .nmachhw rD rA rB oe rc => encX 4#6 rD rA rB (BitVec.ofBool oe ++ 46#9) rc
  | .nmachhws rD rA rB oe rc => encX 4#6 rD rA rB (BitVec.ofBool oe ++ 110#9) rc
  | .nmaclhw rD rA rB oe rc => encX 4#6 rD rA rB (BitVec.ofBool oe ++ 430#9) rc
  | .nmaclhws rD rA rB oe rc => encX 4#6 rD rA rB (BitVec.ofBool oe ++ 494#9) rc
  | .nor rA rS rB rc => encX 31#6 rS rA rB 124#10 rc
  | .or rA rS rB rc => encX 31#6 rS rA rB 444#10 rc
  | .orc rA rS rB rc => encX 31#6 rS rA rB 412#10 rc
  | .ori rA rS uimm => encD 24#6 rS rA uimm
  | .oris rA rS uimm => encD 25#6 rS rA uimm
  | .rfci => encX 19#6 0#5 0#5 0#5 51#10 false
  | .rfi => encX 19#6 0#5 0#5 0#5 50#10 false
  | .rlwimi rA rS sh mb me rc => encM 20#6 rS rA sh mb me rc
  | .rlwinm rA rS sh mb me rc => encM 21#6 rS rA sh mb me rc
  | .rlwnm rA rS rB mb me rc => encM 23#6 rS rA rB mb me rc
  | .sc => encI 17#6 0#24 true false
  | .slw rA rS rB rc => encX 31#6 rS rA rB 24#10 rc
  | .sraw rA rS rB rc => encX 31#6 rS rA rB 792#10 rc
  | .srawi rA rS sh rc => encX 31#6 rS rA sh 824#10 rc
  | .srw rA rS rB rc => encX 31#6 rS rA rB 536#10 rc
  | .stb rS rA d => encD 38#6 rS rA d
  | .stbu rS rA d => encD 39#6 rS rA d
  | .stbux rS rA rB => encX 31#6 rS rA rB 247#10 false
  | .stbx rS rA rB => encX 31#6 rS rA rB 215#10 false
  | .sth rS rA d => encD 44#6 rS rA d
  | .sthbrx rS rA rB => encX 31#6 rS rA rB 918#10 false
  | .sthu rS rA d => encD 45#6 rS rA d
  | .sthux rS rA rB => encX 31#6 rS rA rB 439#10 false
  | .sthx rS rA rB => encX 31#6 rS rA rB 407#10 false
  | .stmw rS rA d => encD 47#6 rS rA d
  | .stswi rS rA nb => encX 31#6 rS rA nb 725#10 false
  | .stswx rS rA rB => encX 31#6 rS rA rB 661#10 false
  | .stw rS rA d => encD 36#6 rS rA d
  | .stwbrx rS rA rB => encX 31#6 rS rA rB 662#10 false
  | .stwcx rS rA rB => encX 31#6 rS rA rB 150#10 true
  | .stwu rS rA d => encD 37#6 rS rA d
  | .stwux rS rA rB => encX 31#6 rS rA rB 183#10 false
  | .stwx rS rA rB => encX 31#6 rS rA rB 151#10 false
  | .subf rD rA rB oe rc => encX 31#6 rD rA rB (BitVec.ofBool oe ++ 40#9) rc
  | .subfc rD rA rB oe rc => encX 31#6 rD rA rB (BitVec.ofBool oe ++ 8#9) rc
  | .subfe rD rA rB oe rc => encX 31#6 rD rA rB (BitVec.ofBool oe ++ 136#9) rc
  | .subfic rD rA simm => encD 8#6 rD rA simm
  | .subfme rD rA oe rc => encX 31#6 rD rA 0#5 (BitVec.ofBool oe ++ 232#9) rc
  | .subfze rD rA oe rc => encX 31#6 rD rA 0#5 (BitVec.ofBool oe ++ 200#9) rc
  | .sync => encX 31#6 0#5 0#5 0#5 598#10 false
  | .tlbia => encX 31#6 0#5 0#5 0#5 370#10 false
  | .tlbre rD rA ws => encX 31#6 rD rA ws 946#10 false
  | .tlbsx rD rA rB rc => encX 31#6 rD rA rB 914#10 rc
  | .tlbsync => encX 31#6 0#5 0#5 0#5 566#10 false
  | .tlbwe rS rA ws => encX 31#6 rS rA ws 978#10 false
  | .tw trapOn rA rB => encX 31#6 trapOn rA rB 4#10 false
  | .twi trapOn rA simm => encD 3#6 trapOn rA simm
  | .wrtee rS => encX 31#6 rS 0#5 0#5 131#10 false
  | .wrteei e => encX 31#6 0#5 0#5 (BitVec.ofBool e ++ 0#4) 163#10 false
  | .xor rA rS rB rc => encX 31#6 rS rA rB 316#10 rc
  | .xori rA rS uimm => encD 26#6 rS rA uimm
  | .xoris rA rS uimm => encD 27#6 rS rA uimm

/-- The instruction that a decoding result holds, if any. -/
def Decoded.instr? : Decoded → Option Instr
  | .ok i => some i
  | .illegal => none
  | .reservedBits => none

/-- The instruction word that four bytes stored from the lowest address on make in big-endian memory (R280). -/
def wordOfBytes (b0 b1 b2 b3 : Byte) : Word := b0 ++ b1 ++ b2 ++ b3

/-- The four bytes of a word, the most significant first: how a word lies in big-endian memory (20_memory.md R143). -/
def bytesOfWord (w : Word) : List Byte :=
  [w.extractLsb' 24 8, w.extractLsb' 16 8, w.extractLsb' 8 8, w.extractLsb' 0 8]

/-- The instruction word that the opcode table's numbering `w` means: bit 0 of `w` is the least significant bit of the word,
and every bit from `nbits` on is 0. -/
def tableWord (nbits w : Nat) : Word := BitVec.ofNat 32 (w % 2 ^ nbits)

/-- The instruction the decoder reads from the word `w` of a row of the opcode table: its bytes laid out in big-endian order
and read back as a fetch does. -/
def decodeTableWord (nbits w : Nat) : Option Instr :=
  match bytesOfWord (tableWord nbits w) with
  | [b0, b1, b2, b3] => (decode (wordOfBytes b0 b1 b2 b3)).instr?
  | _ => none

end Sys2Proof
end

