-- ==== Sys2Proof/Machine/Bits.lean ====
section
/-! DEFINITION. Machine/Bits.lean: bits and fields of words in the spec's numbering (00_scope.md R10: bit 0 is the most
significant), bytes of words and of cache lines, and addresses. -/

namespace Sys2Proof.Machine

/-- Bit `i` of a word, bit 0 the most significant (R10). -/
def bit (w : Word) (i : Nat) : Bool := w.getLsbD (31 - i)

/-- The `n` bits of a word that begin at bit `i`: `w[i : i+n-1]` (R10). -/
def bits (w : Word) (i n : Nat) : BitVec n := w.extractLsb' (32 - i - n) n

/-- The word whose only 1, if `b`, is bit `i`. -/
def oneBit (i : Nat) (b : Bool) : Word := if b then (1#32) <<< (31 - i) else 0#32

/-- The word with bit `i` set to `b`. -/
def setBit (w : Word) (i : Nat) (b : Bool) : Word := (w &&& ~~~((1#32) <<< (31 - i))) ||| oneBit i b

/-- A Bool as a word, 0 or 1. -/
def ofBit (b : Bool) : Word := if b then 1#32 else 0#32

/-- A word with its two low-order bits cleared: `w[0:29] ‖ 0b00` (10_state.md R44). -/
def wordAlign (w : Word) : Word := w &&& 0xFFFFFFFC#32

/-- A word with its five low-order bits cleared: the address of a 32-byte line (20_memory.md R159). -/
def lineAlign (w : Word) : Word := w &&& 0xFFFFFFE0#32

/-- `n` bytes from the most significant end of a value of `8 * n` bits held in the low-order bits of a word. -/
def bytesOf (n : Nat) (v : Word) : List Byte :=
  (List.range n).map fun i => v.extractLsb' (8 * (n - 1 - i)) 8

/-- The value whose bytes, the most significant first, are given: `b_0 ‖ b_1 ‖ …`, zero-extended to a word. -/
def ofBytes (bs : List Byte) : Word :=
  bs.foldl (fun acc b => (acc <<< 8) ||| b.setWidth 32) 0#32

/-- Byte `k` (0 to 31, from the lowest address) of a cache line. -/
def lineByte (d : BitVec 256) (k : Nat) : Byte := d.extractLsb' (248 - 8 * k) 8

/-- A cache line with byte `k` replaced. -/
def setLineByte (d : BitVec 256) (k : Nat) (b : Byte) : BitVec 256 :=
  (d &&& ~~~((0xFF#256) <<< (248 - 8 * k))) ||| ((b.setWidth 256) <<< (248 - 8 * k))

/-- A cache line with bytes from number `k` on replaced. -/
def setLineBytes (d : BitVec 256) (k : Nat) : List Byte → BitVec 256
  | [] => d
  | b :: bs => setLineBytes (setLineByte d k b) (k + 1) bs

/-- `n` bytes of a cache line from byte `k` on. -/
def lineBytes (d : BitVec 256) (k n : Nat) : List Byte := (List.range n).map fun i => lineByte d (k + i)

/-- Word `j` (0 to 7) of a cache line. -/
def lineWord (d : BitVec 256) (j : Nat) : Word := d.extractLsb' (224 - 32 * j) 32

/-- The line whose words are given, the one at the lowest address first. -/
def lineOfWords (ws : List Word) : BitVec 256 :=
  ws.foldl (fun acc w => (acc <<< 32) ||| w.setWidth 256) 0#256

/-- The line whose bytes are given, the one at the lowest address first. -/
def lineOfBytes (bs : List Byte) : BitVec 256 :=
  bs.foldl (fun acc b => (acc <<< 8) ||| b.setWidth 256) 0#256

/-- A word with its bytes in the opposite order (20_memory.md R148, R149). -/
def byteReverse (w : Word) : Word :=
  w.extractLsb' 0 8 ++ w.extractLsb' 8 8 ++ w.extractLsb' 16 8 ++ w.extractLsb' 24 8

/-- The congruence class an address selects: address bits 19:26 (20_memory.md R160). -/
def classIndex (a : Word) : BitVec 8 := a.extractLsb' 5 8

/-- The byte within its line: address bits 27:31. -/
def lineOffset (a : Word) : Nat := (a.extractLsb' 0 5).toNat

/-- The 32-byte block of memory an address lies in: address / 32. -/
def blockOf (a : Word) : Nat := a.toNat / 32

/-- The physical word an address lies in: address / 4. -/
def wordOf (a : Word) : Nat := a.toNat / 4

/-- A vector with every element mapped, in a form the kernel evaluates by structural recursion. -/
def mapVec {α β : Type} {n : Nat} (f : α → β) (v : Vector α n) : Vector β n :=
  ⟨⟨v.toList.map f⟩, by simp⟩

/-- The same with the element's index. -/
def mapIdxVec {α β : Type} {n : Nat} (f : Nat → α → β) (v : Vector α n) : Vector β n :=
  ⟨⟨v.toList.mapIdx f⟩, by simp⟩

end Sys2Proof.Machine
end

