-- ==== Sys2Proof/Config.lean ====
section
/-! DEFINITION. Config.lean: what the platform fixes, and the free values: opaque constants that no proof can evaluate. A free
value is applied to the counter `draws` of State, which each draw advances, so that two draws need not agree. -/

namespace Sys2Proof.Config

/-- PVR_VALUE (92_eei_decisions.md D1): the processor version. The spec lists five values and leaves the choice open; this
model takes the first, a Virtex-II Pro (DESIGN CHOICE, log entry 2). State holds the value, so that statements cover any. -/
def pvrValue : Word := 0x20010820#32

/-- VIRTEX4 (D1): whether a processor version is one of the two Virtex-4 values, the only devices that have MCSR and CCR1
(00_scope.md R2). -/
def virtex4 (pvr : Word) : Bool := pvr == 0x20011430#32 || pvr == 0x20011470#32

/-- What a byte of memory that nothing has written reads as. The spec leaves memory's contents to the platform (D3, U52); the
model reads it as zero (DESIGN CHOICE, unsafe, log entry 3). -/
def unwrittenByte : Byte := 0#8

/-- A free 32-bit value: an undefined register result (U1, U2, U10, U11), log entry 4. -/
opaque freeWord : Nat → Word
/-- A free 8-bit value: an undefined byte (U11), log entry 4. -/
opaque freeByte : Nat → Byte
/-- A free choice between two outcomes that the spec allows (U7 to U14), log entry 4. -/
opaque freeBool : Nat → Bool
/-- A free count (the length of the prefix of a partly executed access, U9; the shadow-TLB entry replaced), log entry 4. -/
opaque freeNat : Nat → Nat
/-- The free bits CR0[LT, GT, EQ] after an invalid division (U1), log entry 4. -/
opaque freeCr : Nat → BitVec 3
/-- The free 32 bytes of a line that `dcba` establishes (U3), log entry 4. -/
opaque freeLine : Nat → BitVec 256

end Sys2Proof.Config
end

