-- ==== Sys2Proof/Machine/State.lean ====
section
/-! DEFINITION. Machine/State.lean: the state of the PPC405 as plain data (10_state.md R40 names every piece), the faults and
refusals, and the state after reset. Values the spec leaves undefined at reset are the model's (log entry 1). -/

namespace Sys2Proof.Machine

/-- Memory that something has written: (address, byte) pairs, addresses strictly rising, no byte equal to what an unlisted
address reads as (20_memory.md R140: one array of 2^32 bytes; the canonical form is `Memory.wf` of Machine/Memory.lean). -/
structure Memory where
  cells : List Host.Cell
  deriving DecidableEq, Repr

/-- The special-purpose registers of 10_state.md R52 to R121 that are neither timer nor debug registers. XER, LR and CTR are
fields of State. -/
structure SpecialRegs where
  usprg0 : Word
  sprg0 : Word
  sprg1 : Word
  sprg2 : Word
  sprg3 : Word
  sprg4 : Word
  sprg5 : Word
  sprg6 : Word
  sprg7 : Word
  pvr : Word
  srr0 : Word
  srr1 : Word
  srr2 : Word
  srr3 : Word
  evpr : Word
  esr : Word
  dear : Word
  mcsr : Word
  ccr0 : Word
  ccr1 : Word
  dccr : Word
  dcwr : Word
  iccr : Word
  sgr : Word
  su0r : Word
  sler : Word
  icdbdr : Word
  pid : Word
  zpr : Word
  deriving DecidableEq, Repr

/-- The time base and the timers (10_state.md R112 to R115, R128; 61_timers_debug.md R878). -/
structure TimerRegs where
  tbu : Word
  tbl : Word
  pit : Word
  /-- The hidden reload value of the PIT (R128). -/
  pitReload : Word
  tcr : Word
  tsr : Word
  /-- TIMERS_FROZEN (R878). -/
  frozen : Bool
  deriving DecidableEq, Repr

/-- The debug registers (10_state.md R116 to R121). -/
structure DebugRegs where
  dbcr0 : Word
  dbcr1 : Word
  dbsr : Word
  iac1 : Word
  iac2 : Word
  iac3 : Word
  iac4 : Word
  dac1 : Word
  dac2 : Word
  dvc1 : Word
  dvc2 : Word
  deriving DecidableEq, Repr

/-- One entry of the unified TLB, 68 bits (10_state.md R123): TLBHI is tag, size, valid, endian, u0, tid; TLBLO is the rest. -/
structure TlbEntry where
  tag : BitVec 22
  size : BitVec 3
  valid : Bool
  endian : Bool
  u0 : Bool
  tid : BitVec 8
  rpn : BitVec 22
  ex : Bool
  wr : Bool
  zsel : BitVec 4
  w : Bool
  i : Bool
  m : Bool
  g : Bool
  deriving DecidableEq, Repr

/-- An entry of the unified TLB as it was before software changed it, with its index (21_translation.md R240). -/
structure OldEntry where
  index : BitVec 6
  entry : TlbEntry
  deriving DecidableEq, Repr

/-- A line of the instruction cache (10_state.md R126). The 32 bytes stand in `data`, the one at the lowest address most
significant; each instruction word is in big-endian order (20_memory.md R149). -/
structure ILine where
  valid : Bool
  tag : BitVec 22
  data : BitVec 256
  /-- The model's own: the E attribute in force when the line was filled (R149). -/
  little : Bool
  deriving DecidableEq, Repr

/-- A line of the data cache (10_state.md R126); `data` as in `ILine`, in memory order. -/
structure DLine where
  valid : Bool
  dirty : Bool
  tag : BitVec 19
  data : BitVec 256
  deriving DecidableEq, Repr

/-- A congruence class of the instruction cache: ways A and B, and the LRU bit (true: way B is least recently used, R161). -/
structure IClass where
  wayA : ILine
  wayB : ILine
  lru : Bool
  deriving DecidableEq, Repr

/-- A congruence class of the data cache. -/
structure DClass where
  wayA : DLine
  wayB : DLine
  lru : Bool
  deriving DecidableEq, Repr

/-- A line that left the instruction cache, whose words the fetch queue or the line buffer may still hold (20_memory.md R183,
46_cache_tlb.md R710, R712): the physical block number (address / 32) and its words as the cache had them. -/
structure OldLine where
  block : Nat
  data : BitVec 256
  deriving DecidableEq, Repr

/-- The data fill buffer when it keeps a block of non-cacheable memory (CCR0[LWL], 20_memory.md R166): the physical block
number (address / 32) and its bytes. -/
structure FillBuffer where
  block : Nat
  data : BitVec 256
  deriving DecidableEq, Repr

/-- The registers whose change is certain to be in force only after a context synchronization (20_memory.md R191,
45_processor_control_sync.md R662, 70_reset_and_hazards.md R941; of the MSR: PR, IR and DR), and ICDBDR, which `icread` fills
late (R951). EVPR is not among them: an interrupt entry synchronizes before it uses EVPR (60_exceptions.md R760). -/
inductive CtxReg where
  | msr | pid | zpr | dccr | dcwr | iccr | sgr | su0r | sler | ccr0 | icdbdr
  | dbcr0 | dbcr1 | iac1 | iac2 | iac3 | iac4 | dac1 | dac2 | dvc1 | dvc2
  deriving DecidableEq, Repr

/-- A change of a context register that may not be in force yet: the register's value before the change (20_memory.md R191). -/
structure Stale where
  reg : CtxReg
  old : Word
  /-- The old value is still in force: each instruction boundary may, freely, end that. -/
  live : Bool
  /-- How many more instructions it can be in force for, where that is bounded (70_reset_and_hazards.md R941). -/
  left : Option Nat := none
  deriving DecidableEq, Repr

/-- Run state (10_state.md R130). The waiting state is `running` with MSR[WE] = 1. -/
inductive RunState where
  /-- Executing instructions, or waiting if MSR[WE] = 1. -/
  | running
  /-- Stopped by external debug mode (61_timers_debug.md R873). -/
  | stopped
  /-- Stopped in debug-wait mode: enabled critical and external interrupts are serviced (R874). -/
  | debugWait
  deriving DecidableEq, Repr

/-- How the instruction of the current step ended (the model's own; `step` clears it and reads it). -/
inductive Retire where
  /-- It completed, or has not ended yet. -/
  | completed
  /-- It raised an exception or was stopped by a debug event, and did not complete. -/
  | excepted
  /-- It completed and reset the processor. -/
  | reset
  deriving DecidableEq, Repr

/-- What stands behind a physical address (MEMORY_MAP, 92_eei_decisions.md D3). -/
inductive MemKind where
  /-- Memory. -/
  | ram
  /-- Memory that keeps its contents when it is written (log entry 3). -/
  | rom
  /-- A device: what it answers is open, and a write leaves no trace in memory (log entry 3). -/
  | device
  /-- The bus answers with an error (20_memory.md R185). -/
  | vacant
  /-- Nothing, and no error either: what a read gives is open, and a write or a cast-out is a programming error (20_memory.md R181,
  U34; log entry 3). -/
  | absent
  deriving DecidableEq, Repr

/-- A range of physical addresses that are not memory, with what they are (MEMORY_MAP, D3): `size` bytes from `base` on, modulo
2^32. -/
structure MapRange where
  base : Word
  size : Nat
  kind : MemKind
  deriving DecidableEq, Repr

/-- The relation of time-base ticks to steps (TB_CLOCK, D4). -/
inductive Clock where
  /-- The same number of ticks in every step. -/
  | every (n : Nat)
  /-- A free number of ticks in each step. -/
  | free
  deriving DecidableEq, Repr

/-- An address range that the platform decodes as on-chip memory (OCM_MODEL, D6). -/
structure OcmRange where
  base : Word
  size : Nat
  deriving DecidableEq, Repr

/-- The environment as the core sees it: the parameters of 00_scope.md R9 but for PVR_VALUE and RESET_KIND (10_state.md R129,
92_eei_decisions.md D2 to D6, D20). -/
structure Env where
  /-- The critical-interrupt request level. -/
  critReq : Bool
  /-- The external (noncritical) interrupt request level. -/
  extReq : Bool
  /-- The unconditional-debug-event signal. -/
  ude : Bool
  /-- TB_CLOCK. -/
  clock : Clock
  /-- MEMORY_MAP: the physical addresses that are not memory, with what they are; of ranges that overlap the first counts. -/
  map : List MapRange
  /-- OCM_MODEL: the range of the data-side on-chip memory, if there is one. -/
  dataOcm : Option OcmRange
  /-- The range of the instruction-side on-chip memory. -/
  instrOcm : Option OcmRange
  /-- DCR_MODEL: the numbers behind which a device stands that is no plain register. -/
  dcrDevices : List Nat
  deriving DecidableEq, Repr

/-- Why the machine stops with a fault. Each is a programming error whose result the spec calls undefined
(93_implementation_defined.md, treatment `fault`). -/
inductive Fault where
  /-- A translation, of an access or of a fetch ahead, found more than one valid matching UTLB entry (U30, 21_translation.md R225).
  Safe: the spec guarantees nothing from here on. -/
  | multipleTlbHits
  /-- `tlbsx` found more than one valid matching UTLB entry (U30, 46_cache_tlb.md R716). Safe. -/
  | multipleSearchHits
  /-- An access to an address marked caching-inhibited whose line is in the cache (U31, 20_memory.md R152). Safe. -/
  | cachedWhileInhibited
  /-- A TLB entry with non-zero RPN bits below its page size was used, for an access or a fetch ahead (U35, 21_translation.md R226).
  Safe. -/
  | rpnUnusedBits
  /-- Storage made cacheable, by DCCR, ICCR or a valid TLB entry with I = 0, before the cache was invalidated after reset (U32,
  20_memory.md R174). Raised by `mtspr` and `tlbwe`. Safe: the spec guarantees nothing from here on. -/
  | cacheNotInvalidated
  /-- CCR0[IPP, FWOA] changed outside Sequence 1, or CCR0[DPP1, U0XE] outside Sequences 1 and 2 (U33, 70_reset_and_hazards.md
  R950). Raised by `mtspr`, and by a fetch or `icbt` that uses the bus after IPP or FWOA was changed and before the context
  synchronization that ends Sequence 1. Safe. -/
  | ccr0OutsideSequence
  /-- MSR[IR] or MSR[DR] set while a UTLB entry was never written since reset (U37, 21_translation.md R241,
  70_reset_and_hazards.md R935). Raised by `mtmsr`, `rfi` and `rfci`. Safe: the entries are undefined. -/
  | tlbNotInitialized
  /-- An address of on-chip memory whose page does not have RPN = EPN (21_translation.md R238). Raised by a translated access or fetch ahead.
  Safe: what the page's RPN names is not what the access reaches. -/
  | ocmPageTranslated
  /-- A store, or a line cast out, to an address behind which the platform has nothing and reports no error (U34, 20_memory.md R181).
  Raised by `busWrite`. Safe: the spec promises unpredictable results. -/
  | writeToNothing
  deriving DecidableEq, Repr

/-- The state of the machine (10_state.md R40). -/
structure State where
  /-- GPR0 to GPR31 (R43). -/
  gpr : Vector Word 32
  /-- The address of the next instruction; CIA while it executes (R44). -/
  pc : Word
  /-- Condition register (R45). -/
  cr : Word
  /-- Fixed-point exception register (R48). -/
  xer : Word
  /-- Link register (R50). -/
  lr : Word
  /-- Count register (R51). -/
  ctr : Word
  /-- Machine-state register (R60). -/
  msr : Word
  /-- The other special-purpose registers. -/
  spr : SpecialRegs
  /-- Time base and timers. -/
  tmr : TimerRegs
  /-- Debug registers. -/
  dbg : DebugRegs
  /-- Device control registers 0 to 1023 (R122), plain registers but for those of `env.dcrDevices` (D2). -/
  dcr : Vector Word 1024
  /-- The unified TLB (R123). -/
  utlb : Vector TlbEntry 64
  /-- The UTLB entries whose TLBHI `tlbwe` or `tlbia` has written since the last reset: a bit for each (21_translation.md R241,
  93_implementation_defined.md U37). -/
  tlbReady : BitVec 64
  /-- UTLB entries as they were before changes that the instruction shadow TLB may not show yet (R124, 21_translation.md
  R240). -/
  itlbOld : List OldEntry
  /-- The same for the data shadow TLB. -/
  dtlbOld : List OldEntry
  /-- Instruction cache (R126). -/
  icache : Vector IClass 256
  /-- Data cache (R126). -/
  dcache : Vector DClass 256
  /-- Every congruence class of the data cache that has been invalidated since the last reset: a bit for each (20_memory.md R174,
  93_implementation_defined.md U32). -/
  dcacheReady : BitVec 256
  /-- The instruction cache has been invalidated since the last reset. -/
  icacheReady : Bool
  /-- Words of memory as they were before a write that has not certainly completed on the bus: (physical word address / 4, old
  bytes) (20_memory.md R183, 70_reset_and_hazards.md R942; until `sync` or `eieio`). -/
  oldMem : List (Nat × Word)
  /-- The same for writes that have completed: words that the fetch queue, the line buffer or the instruction fill buffer may
  still hold (R127, 20_memory.md R163, R171; until the next context synchronization). -/
  oldCode : List (Nat × Word)
  /-- Lines that left the instruction cache since the last context synchronization (R127, 46_cache_tlb.md R710). -/
  oldLines : List OldLine
  /-- An instruction was fetched from the bus since the last context synchronization (70_reset_and_hazards.md R950). -/
  busFetch : Bool
  /-- CCR0[IPP] or CCR0[FWOA] was changed and the context not synchronized since: no instruction may be fetched from the bus
  (R950). -/
  ccr0Open : Bool
  /-- The data fill buffer (R127, 20_memory.md R166). -/
  dfb : Option FillBuffer
  /-- No storage access has begun since the last `sync` or `eieio`, or since reset (70_reset_and_hazards.md R950). -/
  synced : Bool
  /-- RESERVE (R125). -/
  reserve : Bool
  /-- Changes of context registers that may not be in force yet (20_memory.md R191, U12). -/
  stale : List Stale
  /-- Run state (R130). -/
  run : RunState
  /-- The processor left debug-wait to service an interrupt and stops again on return (61_timers_debug.md R874). -/
  dwLatched : Bool
  /-- A debug interrupt is pending behind an external-debug stop (R870). -/
  dbgPend : Bool
  /-- A data bus error was reported and not yet acted on (60_exceptions.md R766). -/
  dataMC : Bool
  /-- A `sync` or `eieio` has waited for that error's bus cycle: the next boundary acts on it (45_processor_control_sync.md
  R677). -/
  mcDue : Bool
  /-- What lies outside the core. -/
  env : Env
  /-- System memory (R138, 20_memory.md R140). -/
  mem : Memory
  /-- The data-side on-chip memory (D6). -/
  dataOcm : Memory
  /-- The instruction-side on-chip memory (D6). -/
  instrOcm : Memory
  /-- The model's own: how many free values have been drawn (Config). -/
  draws : Nat
  /-- The model's own: how this step's instruction ended. -/
  retire : Retire
  /-- The model's own: the DBSR bits of DVC events that this step's instruction met (61_timers_debug.md R876). -/
  dvcBits : Word
  /-- The model's own: the error on which a fetch ahead of this step stops the machine (21_translation.md R225). -/
  aheadFault : Option Fault
  deriving DecidableEq, Repr

/-- Why an instruction gets no meaning. -/
inductive Refusal where
  /-- An instruction the model does not cover. No arm of `exec` answers it in this model. Safe. -/
  | notModelled (mnemonic : String)
  /-- The fetched word is an encoding with a 1 in a reserved bit: boundedly undefined (U20). Raised by `step`. Safe. -/
  | reservedBits
  /-- A load with update with rA = 0 or rA = rD, or a store with update with rA = 0: boundedly undefined (U21). Raised by the
  update forms. Safe. -/
  | invalidUpdateForm
  /-- `tlbre` or `tlbwe` with WS greater than 1: boundedly undefined (U25). Safe. -/
  | invalidWordSelect
  /-- `mfspr` or `mtspr` of a number that is not implemented or does not have that access: boundedly undefined (U24). Safe. -/
  | unsupportedSpr
  /-- `mftb` of a number other than 268 and 269: boundedly undefined (U24). Safe. -/
  | unsupportedTbr
  deriving DecidableEq, Repr

/-- An entry of the TLB as the model has it at reset: all zero, not valid (the spec: undefined; log entry 1). -/
def TlbEntry.zero : TlbEntry :=
  { tag := 0#22, size := 0#3, valid := false, endian := false, u0 := false, tid := 0#8, rpn := 0#22, ex := false,
    wr := false, zsel := 0#4, w := false, i := false, m := false, g := false }

/-- A line of the instruction cache as the model has it at reset (log entry 1). -/
def ILine.zero : ILine := { valid := false, tag := 0#22, data := 0#256, little := false }

/-- A line of the data cache as the model has it at reset (log entry 1). -/
def DLine.zero : DLine := { valid := false, dirty := false, tag := 0#19, data := 0#256 }

/-- The special-purpose registers after reset: CCR0, DCCR, ICCR, SGR, SU0R, SLER and ESR as R137 gives them, PVR the
parameter, the rest the model's zero (log entry 1). -/
def SpecialRegs.reset : SpecialRegs :=
  { usprg0 := 0#32, sprg0 := 0#32, sprg1 := 0#32, sprg2 := 0#32, sprg3 := 0#32, sprg4 := 0#32, sprg5 := 0#32,
    sprg6 := 0#32, sprg7 := 0#32, pvr := Config.pvrValue, srr0 := 0#32, srr1 := 0#32, srr2 := 0#32, srr3 := 0#32,
    evpr := 0#32, esr := 0#32, dear := 0#32, mcsr := 0#32, ccr0 := 0x00700000#32, ccr1 := 0#32, dccr := 0#32,
    dcwr := 0#32, iccr := 0#32, sgr := 0xFFFFFFFF#32, su0r := 0#32, sler := 0#32, icdbdr := 0#32, pid := 0#32,
    zpr := 0#32 }

/-- The timers after reset: TCR[WRC] = 00 and TSR[WRS] = 00 as R137 gives them, the rest the model's zero (log entry 1). -/
def TimerRegs.reset : TimerRegs :=
  { tbu := 0#32, tbl := 0#32, pit := 0#32, pitReload := 0#32, tcr := 0#32, tsr := 0#32, frozen := false }

/-- The debug registers after a reset whose DBSR[MRR] bits are `dbsr`: DBCR0 and DBCR1 zero as R137 gives them, the rest the
model's zero (log entry 1). -/
def DebugRegs.reset (dbsr : Word) : DebugRegs :=
  { dbcr0 := 0#32, dbcr1 := 0#32, dbsr := dbsr, iac1 := 0#32, iac2 := 0#32, iac3 := 0#32, iac4 := 0#32,
    dac1 := 0#32, dac2 := 0#32, dvc1 := 0#32, dvc2 := 0#32 }

/-- The environment at reset: no request, all of memory is RAM, no on-chip memory, one tick per step (the minimal instances of D2
to D6; log entry 5). -/
def Env.quiet : Env :=
  { critReq := false, extReq := false, ude := false, clock := .every 1, map := [], dataOcm := none, instrOcm := none,
    dcrDevices := [] }

/-- The machine right after a system reset at power-up (10_state.md R137, 70_reset_and_hazards.md R933): DBSR[MRR] = 11, and
memory with nothing listed. -/
def State.reset : State :=
  { gpr := Vector.replicate 32 0#32
    pc := 0xFFFFFFFC#32
    cr := 0#32
    xer := 0#32
    lr := 0#32
    ctr := 0#32
    msr := 0#32
    spr := SpecialRegs.reset
    tmr := TimerRegs.reset
    dbg := DebugRegs.reset 0x00000300#32
    dcr := Vector.replicate 1024 0#32
    utlb := Vector.replicate 64 TlbEntry.zero
    tlbReady := 0#64
    itlbOld := []
    dtlbOld := []
    icache := Vector.replicate 256 { wayA := ILine.zero, wayB := ILine.zero, lru := false }
    dcache := Vector.replicate 256 { wayA := DLine.zero, wayB := DLine.zero, lru := false }
    dcacheReady := 0#256
    icacheReady := false
    oldMem := []
    oldCode := []
    oldLines := []
    busFetch := false
    ccr0Open := false
    dfb := none
    synced := true
    reserve := false
    stale := []
    run := .running
    dwLatched := false
    dbgPend := false
    dataMC := false
    mcDue := false
    env := Env.quiet
    mem := { cells := [] }
    dataOcm := { cells := [] }
    instrOcm := { cells := [] }
    draws := 0
    retire := .completed
    dvcBits := 0#32
    aheadFault := none }

end Sys2Proof.Machine
end

