-- ==== Sys2Proof/Machine/Memory.lean ====
section
/-! DEFINITION. Machine/Memory.lean: system memory. Reads and writes of bytes by physical address; a write keeps the canonical
form. This is what lies behind the caches: Machine/Cache.lean is the processor's view. -/

namespace Sys2Proof.Machine

/-- The byte a list of cells gives address `a`. -/
def lookupCell (a : Nat) : List Host.Cell → Byte
  | [] => Config.unwrittenByte
  | (k, b) :: r => if a = k then b else if a < k then Config.unwrittenByte else lookupCell a r

/-- The cells after `b` is written to `a`: the entry is removed if an unlisted address reads as `b`. -/
def insertCell (a : Nat) (b : Byte) : List Host.Cell → List Host.Cell
  | [] => if b = Config.unwrittenByte then [] else [(a, b)]
  | (k, c) :: r =>
    if a < k then (if b = Config.unwrittenByte then (k, c) :: r else (a, b) :: (k, c) :: r)
    else if a = k then (if b = Config.unwrittenByte then r else (k, b) :: r)
    else (k, c) :: insertCell a b r

/-- Whether cells are canonical above address `lo`: strictly rising addresses, none over 2^32, no byte as an unlisted one. -/
def cellsOk (lo : Nat) : List Host.Cell → Bool
  | [] => true
  | (k, b) :: r => decide (lo ≤ k) && decide (k < 2 ^ 32) && b != Config.unwrittenByte && cellsOk (k + 1) r

/-- The canonical form of memory. -/
def Memory.wf (m : Memory) : Bool := cellsOk 0 m.cells

/-- The byte of system memory at physical address `a` (20_memory.md R140). -/
def Memory.read (m : Memory) (a : Word) : Byte := lookupCell a.toNat m.cells

/-- System memory after a byte is written. -/
def Memory.write (m : Memory) (a : Word) (b : Byte) : Memory := { cells := insertCell a.toNat b m.cells }

/-- `n` consecutive bytes of system memory from physical address `a` on, modulo 2^32. -/
def Memory.readBytes (m : Memory) (a : Word) : Nat → List Byte
  | 0 => []
  | n + 1 => m.read a :: m.readBytes (a + 1#32) n

/-- System memory after consecutive bytes are written from physical address `a` on. -/
def Memory.writeBytes (m : Memory) (a : Word) : List Byte → Memory
  | [] => m
  | b :: bs => (m.write a b).writeBytes (a + 1#32) bs

/-- System memory after those of consecutive bytes from physical address `a` on that are given are written. -/
def Memory.writeSome (m : Memory) (a : Word) : List (Option Byte) → Memory
  | [] => m
  | some b :: bs => (m.write a b).writeSome (a + 1#32) bs
  | none :: bs => m.writeSome (a + 1#32) bs

/-- The word that four bytes of system memory make, the lowest address most significant. -/
def Memory.readWord (m : Memory) (a : Word) : Word :=
  m.read a ++ m.read (a + 1#32) ++ m.read (a + 2#32) ++ m.read (a + 3#32)

/-- The 32 bytes of the block that physical address `a` lies in. -/
def Memory.readLine (m : Memory) (a : Word) : BitVec 256 := lineOfBytes (m.readBytes (lineAlign a) 32)

end Sys2Proof.Machine
end

