-- ==== Sys2Proof/Machine/Ops.lean ====
section
/-! DEFINITION. Machine/Ops.lean: the operations every meaning is written with: registers, free values, the context in force,
context synchronization, debug events, taking an interrupt and returning from one. -/

namespace Sys2Proof.Machine

/-- The outcome of an instruction or a step. -/
abbrev Out := Host.Outcome State Fault Refusal

/-- The result of a part of an instruction. -/
inductive Res (α : Type) where
  /-- A value, and the state so far. -/
  | ok (a : α) (s : State)
  /-- The instruction ends here with this state: an exception was taken, or a debug event stopped it. -/
  | stop (s : State)
  /-- The machine stops. -/
  | fault (f : Fault)
  deriving Repr

/-- The rest of an instruction after a part of it. -/
def Res.andThen {α : Type} (r : Res α) (k : α → State → Out) : Out :=
  match r with
  | .ok a s => k a s
  | .stop s => .next s
  | .fault f => .fault f

/-- A further part of an instruction. -/
def Res.bind {α β : Type} (r : Res α) (k : α → State → Res β) : Res β :=
  match r with
  | .ok a s => k a s
  | .stop s => .stop s
  | .fault f => .fault f

/-! ### Registers -/

/-- `GPR[r]` (10_state.md R43). -/
def State.reg (s : State) (r : Reg) : Word := s.gpr[r.toNat]'(r.isLt)

/-- The state with `GPR[r] <- v`. No register is hard-wired (R43). -/
def State.setReg (s : State) (r : Reg) (v : Word) : State := { s with gpr := s.gpr.set r.toNat v r.isLt }

/-- `(rA|0)`: zero if the rA field is 0, else `GPR[rA]` (00_scope.md R11). -/
def State.baseReg (s : State) (rA : Reg) : Word := if rA = 0#5 then 0#32 else s.reg rA

/-- The state at the next sequential instruction: `pc <- CIA + 4` modulo 2^32 (10_state.md R44). -/
def State.advance (s : State) : State := { s with pc := s.pc + 4#32 }

/-- An instruction that ends normally and goes on to the next one. -/
def done (s : State) : Out := .next s.advance

/-- Bit `i` of CR. -/
def State.crBit (s : State) (i : BitVec 5) : Bool := bit s.cr i.toNat

/-- XER[SO] (10_state.md R48). -/
def State.so (s : State) : Bool := bit s.xer 0
/-- XER[CA]. -/
def State.ca (s : State) : Bool := bit s.xer 2

/-- MSR bits that take effect at once (92_eei_decisions.md D17). -/
def State.we (s : State) : Bool := bit s.msr 13
/-- MSR[CE]. -/
def State.ce (s : State) : Bool := bit s.msr 14
/-- MSR[EE]. -/
def State.ee (s : State) : Bool := bit s.msr 16
/-- MSR[ME]. -/
def State.me (s : State) : Bool := bit s.msr 19
/-- MSR[DWE]. -/
def State.dwe (s : State) : Bool := bit s.msr 21
/-- MSR[DE]. -/
def State.de (s : State) : Bool := bit s.msr 22

/-- Whether the device is a Virtex-4 (00_scope.md R2): MCSR and CCR1 exist. -/
def State.virtex4 (s : State) : Bool := Config.virtex4 s.spr.pvr

/-! ### Free values -/

/-- A free word. -/
def drawWord (s : State) : Word × State := (Config.freeWord s.draws, { s with draws := s.draws + 1 })
/-- A free choice. -/
def drawBool (s : State) : Bool × State := (Config.freeBool s.draws, { s with draws := s.draws + 1 })
/-- A free number below `n`, for `n` not 0. -/
def drawBelow (n : Nat) (s : State) : Nat × State := (Config.freeNat s.draws % n, { s with draws := s.draws + 1 })
/-- Free bits CR0[LT, GT, EQ]. -/
def drawCr (s : State) : BitVec 3 × State := (Config.freeCr s.draws, { s with draws := s.draws + 1 })
/-- A free line. -/
def drawLine (s : State) : BitVec 256 × State := (Config.freeLine s.draws, { s with draws := s.draws + 1 })

/-- A free byte. -/
def drawByte (s : State) : Byte × State := (Config.freeByte s.draws, { s with draws := s.draws + 1 })

/-- `n` free bytes. -/
def drawBytes : Nat → State → List Byte × State
  | 0, s => ([], s)
  | n + 1, s =>
    let r := drawBytes n { s with draws := s.draws + 1 }
    (Config.freeByte s.draws :: r.1, r.2)

/-! ### The context in force (20_memory.md R190, R191; 70_reset_and_hazards.md R941) -/

/-- The contents of a context register. -/
def State.current (s : State) : CtxReg → Word
  | .msr => s.msr
  | .pid => s.spr.pid
  | .zpr => s.spr.zpr
  | .dccr => s.spr.dccr
  | .dcwr => s.spr.dcwr
  | .iccr => s.spr.iccr
  | .sgr => s.spr.sgr
  | .su0r => s.spr.su0r
  | .sler => s.spr.sler
  | .ccr0 => s.spr.ccr0
  | .icdbdr => s.spr.icdbdr
  | .dbcr0 => s.dbg.dbcr0
  | .dbcr1 => s.dbg.dbcr1
  | .iac1 => s.dbg.iac1
  | .iac2 => s.dbg.iac2
  | .iac3 => s.dbg.iac3
  | .iac4 => s.dbg.iac4
  | .dac1 => s.dbg.dac1
  | .dac2 => s.dbg.dac2
  | .dvc1 => s.dbg.dvc1
  | .dvc2 => s.dbg.dvc2

/-- The state with a context register's contents replaced. -/
def State.setCurrent (s : State) (r : CtxReg) (v : Word) : State :=
  match r with
  | .msr => { s with msr := v }
  | .pid => { s with spr := { s.spr with pid := v } }
  | .zpr => { s with spr := { s.spr with zpr := v } }
  | .dccr => { s with spr := { s.spr with dccr := v } }
  | .dcwr => { s with spr := { s.spr with dcwr := v } }
  | .iccr => { s with spr := { s.spr with iccr := v } }
  | .sgr => { s with spr := { s.spr with sgr := v } }
  | .su0r => { s with spr := { s.spr with su0r := v } }
  | .sler => { s with spr := { s.spr with sler := v } }
  | .ccr0 => { s with spr := { s.spr with ccr0 := v } }
  | .icdbdr => { s with spr := { s.spr with icdbdr := v } }
  | .dbcr0 => { s with dbg := { s.dbg with dbcr0 := v } }
  | .dbcr1 => { s with dbg := { s.dbg with dbcr1 := v } }
  | .iac1 => { s with dbg := { s.dbg with iac1 := v } }
  | .iac2 => { s with dbg := { s.dbg with iac2 := v } }
  | .iac3 => { s with dbg := { s.dbg with iac3 := v } }
  | .iac4 => { s with dbg := { s.dbg with iac4 := v } }
  | .dac1 => { s with dbg := { s.dbg with dac1 := v } }
  | .dac2 => { s with dbg := { s.dbg with dac2 := v } }
  | .dvc1 => { s with dbg := { s.dbg with dvc1 := v } }
  | .dvc2 => { s with dbg := { s.dbg with dvc2 := v } }

/-- The value of a context register that is in force: the oldest one that a change still leaves in force, else its contents. -/
def State.inForce (s : State) (r : CtxReg) : Word :=
  match s.stale.find? (fun e => e.reg == r && e.live) with
  | some e => e.old
  | none => s.current r

/-- For how many of the instructions after a write of a context register the old value can be in force. After a write of MSR[PR, IR, DR]
these are the instructions fetched before it: as many as the fetch queue holds, two in the prefetch buffers and one in decode
(70_reset_and_hazards.md R941, 10_state.md R127). For the others only the next context synchronization ends it (20_memory.md R191,
21_translation.md R240). -/
def oldContext (r : CtxReg) : Option Nat := if r = .msr then some 3 else none

/-- A write of a context register: its contents change at once, its effect at a moment that is free until the next context
synchronization (R191). The spec does not say whether several fields that one write changes come into force together: here they
do, one draw for the whole register (DESIGN CHOICE, unsafe, log entry 11). -/
def State.writeCtx (s : State) (r : CtxReg) (v : Word) : State :=
  if s.current r = v then s
  else ({ s with stale := s.stale ++ [{ reg := r, old := s.current r, live := true, left := oldContext r }] } : State).setCurrent r v

/-- A write of the MSR. Only the bits PR, IR and DR wait for a context synchronization; a write that does not change them takes
effect at once (92_eei_decisions.md D17, 70_reset_and_hazards.md R941). PR, IR and DR changed by one write come into force
together: the spec does not say whether they do (DESIGN CHOICE, unsafe, log entry 11). -/
def State.writeMsr (s : State) (v : Word) : State :=
  if (s.msr ^^^ v) &&& 0x00004030#32 = 0#32 then { s with msr := v } else s.writeCtx .msr v

/-- The changes after each has had its free chance to come into force; the first draw is number `d`. One whose old value has been in
force for as many instructions as it can be comes into force. -/
def settleList : List Stale → Nat → List Stale
  | [], _ => []
  | e :: rest, d =>
    { e with live := e.live && e.left != some 0 && !Config.freeBool d, left := e.left.map (· - 1) } :: settleList rest (d + 1)

/-- What each instruction boundary does to the changes not yet in force (R191: a draw per instruction that, once it has shown
the new value, stays new). -/
def State.settle (s : State) : State :=
  { s with stale := settleList s.stale s.draws, draws := s.draws + s.stale.length }

/-- Context synchronization (R190): every change is in force, the shadow TLBs are empty (21_translation.md R240), and the words
fetched ahead are discarded. Writes that may not have completed stay so: `oldMem` is kept (R190, R678). -/
def State.contextSync (s : State) : State :=
  { s with stale := [], itlbOld := [], dtlbOld := [], oldCode := [], oldLines := [], busFetch := false, ccr0Open := false }

/-- Storage synchronization (R189): every earlier access has completed on the bus, so that only the words fetched ahead can still
be old; the data fill buffer is empty, and a data bus error that was reported is acted on at the next boundary. -/
def State.storageSync (s : State) : State :=
  { s with oldMem := [], oldCode := s.oldCode ++ s.oldMem, dfb := none, synced := true, mcDue := s.mcDue || s.dataMC }

/-- The debug registers as they are in force. DBSR records events and is always its own contents. -/
def State.debugNow (s : State) : DebugRegs :=
  { dbcr0 := s.inForce .dbcr0, dbcr1 := s.inForce .dbcr1, dbsr := s.dbg.dbsr,
    iac1 := s.inForce .iac1, iac2 := s.inForce .iac2, iac3 := s.inForce .iac3, iac4 := s.inForce .iac4,
    dac1 := s.inForce .dac1, dac2 := s.inForce .dac2, dvc1 := s.inForce .dvc1, dvc2 := s.inForce .dvc2 }

/-- DBCR0[EDM] in force. -/
def State.edm (s : State) : Bool := bit (s.inForce .dbcr0) 0
/-- DBCR0[IDM] in force. -/
def State.idm (s : State) : Bool := bit (s.inForce .dbcr0) 1

/-- MSR[PR] in force: user mode (60_exceptions.md R790). -/
def State.user (s : State) : Bool := bit (s.inForce .msr) 17
/-- MSR[IR] in force. -/
def State.ir (s : State) : Bool := bit (s.inForce .msr) 26
/-- MSR[DR] in force. -/
def State.dr (s : State) : Bool := bit (s.inForce .msr) 27

/-! ### Interrupts -/

/-- The interrupts of the PPC405 (60_exceptions.md R753), with what they record. -/
inductive Exc where
  | criticalInput
  | machineCheckInstr
  | machineCheckData
  /-- A store-type access or not (DST), a zone violation (DIZ), a U0 violation (U0F), the failed address. -/
  | dataStorage (store diz u0f : Bool) (ea : Word)
  | instrStorage (diz : Bool)
  | external
  | alignment (ea : Word)
  | programIllegal
  | programPrivileged
  | programTrap
  | systemCall
  | pit
  | fit
  | watchdog
  | dataTlbMiss (store : Bool) (ea : Word)
  | instrTlbMiss
  | debug
  deriving DecidableEq, Repr

/-- The vector offset (R753). -/
def Exc.offset : Exc → Word
  | .criticalInput => 0x0100#32
  | .machineCheckInstr => 0x0200#32
  | .machineCheckData => 0x0200#32
  | .dataStorage _ _ _ _ => 0x0300#32
  | .instrStorage _ => 0x0400#32
  | .external => 0x0500#32
  | .alignment _ => 0x0600#32
  | .programIllegal => 0x0700#32
  | .programPrivileged => 0x0700#32
  | .programTrap => 0x0700#32
  | .systemCall => 0x0C00#32
  | .pit => 0x1000#32
  | .fit => 0x1010#32
  | .watchdog => 0x1020#32
  | .dataTlbMiss _ _ => 0x1100#32
  | .instrTlbMiss => 0x1200#32
  | .debug => 0x2000#32

/-- The critical interrupts (R754). -/
def Exc.critical : Exc → Bool
  | .criticalInput => true
  | .machineCheckInstr => true
  | .machineCheckData => true
  | .watchdog => true
  | .debug => true
  | .dataStorage _ _ _ _ => false
  | .instrStorage _ => false
  | .external => false
  | .alignment _ => false
  | .programIllegal => false
  | .programPrivileged => false
  | .programTrap => false
  | .systemCall => false
  | .pit => false
  | .fit => false
  | .dataTlbMiss _ _ => false
  | .instrTlbMiss => false

/-- The MSR bits an interrupt keeps (R761): a machine check none, another critical interrupt ME, a noncritical one CE, ME and
DE. -/
def Exc.msrMask (e : Exc) : Word :=
  if e = .machineCheckInstr ∨ e = .machineCheckData then 0#32
  else if e.critical then 0x00001000#32 else 0x00021200#32

/-- ESR with MCI kept, the given bits set and the rest 0. -/
def esrWith (old new : Word) : Word := (old &&& 0x80000000#32) ||| new

/-- ESR after an interrupt (R762). -/
def Exc.esr (e : Exc) (old : Word) : Word :=
  match e with
  | .machineCheckInstr => 0x80000000#32
  | .dataStorage st diz u0f _ => esrWith old (oneBit 8 st ||| oneBit 9 diz ||| oneBit 16 u0f)
  | .instrStorage diz => esrWith old (oneBit 9 diz)
  | .programIllegal => esrWith old (oneBit 4 true)
  | .programPrivileged => esrWith old (oneBit 5 true)
  | .programTrap => esrWith old (oneBit 6 true)
  | .dataTlbMiss st _ => esrWith old (oneBit 8 st)
  | _ => old

/-- DEAR after an interrupt (R760 step 4). -/
def Exc.dear (e : Exc) (old : Word) : Word :=
  match e with
  | .dataStorage _ _ _ ea => ea
  | .alignment ea => ea
  | .dataTlbMiss _ ea => ea
  | _ => old

/-- The special-purpose registers after an interrupt is entered with return address `ret` and old MSR `msr` (R760 steps 1 to
4). -/
def SpecialRegs.enter (r : SpecialRegs) (e : Exc) (ret msr : Word) : SpecialRegs :=
  if e.critical then
    { r with srr2 := wordAlign ret, srr3 := msr, esr := e.esr r.esr, dear := e.dear r.dear }
  else
    { r with srr0 := wordAlign ret, srr1 := msr, esr := e.esr r.esr, dear := e.dear r.dear }

/-- The address of an interrupt's handler: `EVPR[0:15] ‖ offset` (R760 step 7). -/
def State.vector (s : State) (e : Exc) : Word := (s.spr.evpr &&& 0xFFFF0000#32) ||| e.offset

/-- Interrupt entry (R760, R761): the return address and the MSR saved, ESR and DEAR recorded, the new MSR loaded, the context
synchronized, and the pc at the handler's address. -/
def interruptEntry (e : Exc) (ret : Word) (s : State) : State :=
  ({ s with spr := s.spr.enter e ret s.msr, msr := s.msr &&& e.msrMask, pc := s.vector e, retire := .excepted } :
    State).contextSync

/-! ### Debug events -/

/-- Where a debug event leaves the processor. -/
inductive Debugged where
  /-- The event is recorded and execution goes on. -/
  | goOn (s : State)
  /-- A debug interrupt was taken, or the processor stopped. -/
  | halted (s : State)
  deriving Repr

/-- The state a debug event leaves. -/
def Debugged.state : Debugged → State
  | .goOn s => s
  | .halted s => s

/-- The timers frozen if DBCR0[FT] = 1, as any debug event does (R878). -/
def freezeTimers (s : State) : State :=
  { s with tmr := { s.tmr with frozen := s.tmr.frozen || bit s.debugNow.dbcr0 31 } }

/-- What every debug event records: its DBSR bits, IDE if it is imprecise, and the timer freeze (61_timers_debug.md R871, R878,
R883). -/
def recordDebug (ide : Bool) (ev : Word) (s : State) : State :=
  { s with
    dbg := { s.dbg with dbsr := s.dbg.dbsr ||| ev ||| oneBit 11 ide }
    tmr := { s.tmr with frozen := s.tmr.frozen || bit s.debugNow.dbcr0 31 } }

/-- A debug event with DBSR bits `ev` (R870, R871): recorded, then by mode a stop (external), a debug interrupt with return
address `ret` (internal, debug interrupts enabled), a debug-wait stop, or nothing more. `de` says whether debug interrupts are
enabled, `ide` whether the event is one that can be imprecise (R883). -/
def debugEventWith (de ide : Bool) (ev ret : Word) (s : State) : Debugged :=
  let t := recordDebug (ide && !de) ev s
  if s.edm then
    .halted { t with run := .stopped, dbgPend := s.dbgPend || (s.idm && de), retire := .excepted }
  else if s.idm && de then .halted (interruptEntry .debug ret t)
  else if !s.idm && s.dwe then .halted { t with run := .debugWait, retire := .excepted }
  else .goOn t

/-- A debug event under MSR[DE] that can be imprecise: all but instruction-complete, branch-taken, toggling instruction
address compare and trap events in some modes (R883). -/
def debugEvent (ev ret : Word) (s : State) : Debugged := debugEventWith s.de true ev ret s

/-- Whether IC, BT and toggling IAC events set no DBSR bit (R871): internal mode on, debug interrupts disabled, external mode
off. Such an event still freezes the timers (R878). -/
def State.quietDebug (s : State) : Bool := s.idm && !s.de && !s.edm

/-- A debug event inside an instruction, before its effect: the rest follows only if execution goes on. -/
def Debugged.toRes : Debugged → Res Unit
  | .goOn s => .ok () s
  | .halted s => .stop s

/-- Taking an interrupt: its entry, and then the exception-taken debug event where DBCR0[EDE] enables it: always for a
noncritical interrupt, in external mode only for a critical one (R881). -/
def takeInterrupt (e : Exc) (ret : Word) (s : State) : State :=
  let t := interruptEntry e ret s
  if bit t.debugNow.dbcr0 6 && (!e.critical || t.edm) then (debugEvent (oneBit 2 true) t.pc t).state else t

/-- A synchronous interrupt whose return address is the instruction itself (60_exceptions.md R751). -/
def raise {α : Type} (e : Exc) (s : State) : Res α := .stop (takeInterrupt e s.pc s)

/-- An instruction that raises an exception and does nothing else. -/
def trapTo (e : Exc) (s : State) : Out := .next (takeInterrupt e s.pc s)

/-- A privileged instruction: its meaning in privileged mode, the privileged-instruction program exception in user mode
(R773). -/
def privileged (s : State) (k : Out) : Out := if s.user then trapTo .programPrivileged s else k

/-- Return from an interrupt to `target` with MSR `msr` (R763, 40_branch_cr_system.md R400, R401): the MSR loaded whole, the
pc at the target with its two low-order bits cleared, the context synchronized. A processor that left debug-wait to service an
interrupt goes back to it if the restored MSR has DWE = 1 (61_timers_debug.md R874). -/
def returnTo (target msr : Word) (s : State) : State :=
  let t := ({ s with msr := msr, pc := wordAlign target } : State).contextSync
  if s.dwLatched && bit msr 21 && !t.idm && !t.edm then { t with run := .debugWait, dwLatched := false } else t

end Sys2Proof.Machine
end

