-- ==== Sys2Proof/Machine/Mmu.lean ====
section
/-! DEFINITION. Machine/Mmu.lean: storage attributes, address translation and access protection (20_memory.md R142, R150 to
R157, 21_translation.md R220 to R240). -/

namespace Sys2Proof.Machine

/-- The storage attributes of an access that have an effect (20_memory.md R150): I is 1 for caching inhibited. -/
structure Attr where
  w : Bool
  i : Bool
  g : Bool
  u0 : Bool
  e : Bool
  deriving DecidableEq, Repr

/-- A translated address: physical address and attributes, and whether it is on-chip memory. -/
structure Xlat where
  ra : Word
  attr : Attr
  ocm : Bool
  deriving DecidableEq, Repr

/-- How an access is classified by protection (21_translation.md R233, R236). -/
inductive AccKind where
  | load
  | store
  deriving DecidableEq, Repr

/-- The result of translation and protection. -/
inductive Checked where
  | ok (x : Xlat) (s : State)
  | exc (e : Exc) (s : State)
  | fault (f : Fault)
  deriving Repr

/-- The real-mode attribute bit of the region an address lies in: `REG[EA[0:4]]` (20_memory.md R157). -/
def regionBit (reg ea : Word) : Bool := bit reg (ea >>> 27).toNat

/-- Whether an address lies in the range of an on-chip memory (92_eei_decisions.md D6). -/
def ocmHolds (r : Option OcmRange) (ea : Word) : Bool :=
  match r with
  | none => false
  | some o => decide ((ea - o.base).toNat < o.size)

/-- The access that an address translates to: on-chip memory takes the effective address, as a non-cacheable access (D6,
21_translation.md R238). -/
def placed (ocm : Bool) (ea ra : Word) (a : Attr) : Xlat :=
  if ocm then { ra := ea, attr := { a with i := true }, ocm := true } else { ra := ra, attr := a, ocm := false }

/-- Data-side attributes in real mode. -/
def State.realDataAttr (s : State) (ea : Word) : Attr :=
  { w := regionBit (s.inForce .dcwr) ea
    i := !regionBit (s.inForce .dccr) ea
    g := regionBit (s.inForce .sgr) ea
    u0 := regionBit (s.inForce .su0r) ea
    e := regionBit (s.inForce .sler) ea }

/-- Instruction-side attributes in real mode. -/
def State.realFetchAttr (s : State) (ea : Word) : Attr :=
  { w := false
    i := !regionBit (s.inForce .iccr) ea
    g := regionBit (s.inForce .sgr) ea
    u0 := regionBit (s.inForce .su0r) ea
    e := regionBit (s.inForce .sler) ea }

/-- The attributes a TLB entry gives (21_translation.md R237). -/
def TlbEntry.attr (t : TlbEntry) : Attr := { w := t.w, i := t.i, g := t.g, u0 := t.u0, e := t.endian }

/-- `log2` of an entry's page size: 10 for 1 KB to 24 for 16 MB (21_translation.md R223: 32 - n with n = 22 - 2 × SIZE). -/
def TlbEntry.pageBits (t : TlbEntry) : Nat := 10 + 2 * t.size.toNat

/-- Whether an entry translates `ea` for process `pid` (21_translation.md R224). -/
def TlbEntry.hits (t : TlbEntry) (pid : BitVec 8) (ea : Word) : Bool :=
  t.valid && (t.tag >>> (2 * t.size.toNat) == ea.extractLsb' 10 22 >>> (2 * t.size.toNat)) &&
    (t.tid == 0#8 || t.tid == pid)

/-- Whether RPN bits below the page size are not all zero (21_translation.md R226). -/
def TlbEntry.rpnUnused (t : TlbEntry) : Bool := t.rpn &&& (BitVec.ofNat 22 (2 ^ (2 * t.size.toNat) - 1)) != 0#22

/-- `RPN[0:n-1] ‖ EA[n:31]` (21_translation.md R226). -/
def TlbEntry.physical (t : TlbEntry) (ea : Word) : Word :=
  ((t.rpn ++ 0#10) >>> t.pageBits) <<< t.pageBits ||| (ea &&& BitVec.ofNat 32 (2 ^ t.pageBits - 1))

/-- The PID in force. -/
def State.pidNow (s : State) : BitVec 8 := (s.inForce .pid).extractLsb' 0 8

/-- The result of a TLB search. -/
inductive Lookup where
  | miss
  | hit (t : TlbEntry)
  | multiple
  deriving DecidableEq, Repr

/-- The search of all 64 entries of a UTLB (21_translation.md R224, R225). -/
def searchEntries (u : Vector TlbEntry 64) (pid : BitVec 8) (ea : Word) : Lookup :=
  match u.toList.filter (fun t => t.hits pid ea) with
  | [] => .miss
  | [t] => .hit t
  | _ :: _ :: _ => .multiple

/-- The search of the UTLB. -/
def State.searchUtlb (s : State) (pid : BitVec 8) (ea : Word) : Lookup := searchEntries s.utlb pid ea

/-- Every class of the data cache has been invalidated since reset (20_memory.md R174). -/
def State.dcacheInvalidated (s : State) : Bool := s.dcacheReady == BitVec.allOnes 256

/-- A valid TLB entry that makes a page cacheable before both caches were invalidated after reset (U32). -/
def State.cachesTooEarly (s : State) (t : TlbEntry) : Bool := t.valid && !t.i && !(s.dcacheInvalidated && s.icacheReady)

/-- Every entry of the UTLB has been written since reset (U37). -/
def State.tlbInitialized (s : State) : Bool := s.tlbReady == BitVec.allOnes 64

/-- A new MSR that sets IR or DR, which was 0, before the UTLB has been initialized (U37). -/
def State.translatesTooEarly (s : State) (msr : Word) : Bool :=
  (msr &&& ~~~s.msr) &&& 0x00000030#32 != 0#32 && !s.tlbInitialized

/-- The entry of the UTLB with index `i`. -/
def State.tlbEntry (s : State) (i : BitVec 6) : TlbEntry := s.utlb[i.toNat]'(i.isLt)

/-- The searches of a UTLB as it was before each of the changes given, the latest first. -/
def earlierSearches (pid : BitVec 8) (ea : Word) : List OldEntry → Vector TlbEntry 64 → List Lookup
  | [], _ => []
  | o :: os, u =>
    let v := u.set o.index.toNat o.entry o.index.isLt
    searchEntries v pid ea :: earlierSearches pid ea os v

/-- The PIDs a translation may go by: PID, and what it was before each change since the last context synchronization. -/
def State.pids (s : State) : List (BitVec 8) :=
  s.spr.pid.extractLsb' 0 8 :: (s.stale.filter (fun e => e.reg == .pid)).map (fun e => e.old.extractLsb' 0 8)

/-- What a translation may give by the UTLB, or by PID, as it was before a change that is not yet synchronized, where that differs
from what they give now. Whether a shadow entry carries its TID is not stated (R240): each translation may go by an older PID, also
one after another that went by the new PID (DESIGN CHOICE, safe, log entry 12). -/
def State.oldLookups (s : State) (old : List OldEntry) (ea : Word) : List Lookup :=
  (s.pids.flatMap (fun p => searchEntries s.utlb p ea :: earlierSearches p ea old.reverse s.utlb)).filter
    (fun l => l != s.searchUtlb s.pidNow ea)

/-- A translation: by the UTLB, or, freely, by the UTLB or the PID as it was before a change, until the next context synchronization
(21_translation.md R240). -/
def State.searchTlb (s : State) (old : List OldEntry) (ea : Word) : Lookup × State :=
  match s.oldLookups old ea with
  | [] => (s.searchUtlb s.pidNow ea, s)
  | l :: ls =>
    let r := drawBelow (ls.length + 2) s
    ((l :: ls).getD r.1 (s.searchUtlb s.pidNow ea), r.2)

/-- The zone field of ZPR that an entry selects: `ZPR[2×ZSEL : 2×ZSEL+1]` (21_translation.md R230). -/
def State.zone (s : State) (t : TlbEntry) : BitVec 2 := bits (s.inForce .zpr) (2 * t.zsel.toNat) 2

/-- No access at all: user mode and zone 00 (21_translation.md R232). -/
def State.noAccess (s : State) (t : TlbEntry) : Bool := s.user && s.zone t == 0#2

/-- WR and EX overridden: zone 11, or zone 10 in privileged mode (21_translation.md R232). -/
def State.fullAccess (s : State) (t : TlbEntry) : Bool := s.zone t == 3#2 || (!s.user && s.zone t == 2#2)

/-- CCR0[U0XE]. -/
def State.u0xe (s : State) : Bool := bit (s.inForce .ccr0) 14

/-- The data-storage exception of an access to a page, if any (21_translation.md R233). -/
def State.dataPermission (s : State) (k : AccKind) (t : TlbEntry) (ea : Word) : Option Exc :=
  match k with
  | .load => if s.noAccess t then some (.dataStorage false true false ea) else none
  | .store =>
    if s.noAccess t then some (.dataStorage true true false ea)
    else if !t.wr && !s.fullAccess t then some (.dataStorage true false false ea)
    else if t.u0 && s.u0xe then some (.dataStorage true false true ea)
    else none

/-- The instruction-storage exception of a fetch from a page, if any (21_translation.md R233, R235). -/
def State.fetchPermission (s : State) (t : TlbEntry) : Option Exc :=
  if s.noAccess t then some (.instrStorage true)
  else if !t.ex && !s.fullAccess t then some (.instrStorage false)
  else if t.g then some (.instrStorage false)
  else none

/-- What a translation that found an entry gives, once its permission is known. An entry whose RPN has bits below its page size is a
programming error (U35), and so is one for on-chip memory that does not have RPN = EPN (R238). -/
def usePage (ocm : Bool) (t : TlbEntry) (ea : Word) (p : Option Exc) (s : State) : Checked :=
  match p with
  | some e => .exc e s
  | none =>
    if t.rpnUnused then .fault .rpnUnusedBits
    else if ocm && t.physical ea != ea then .fault .ocmPageTranslated
    else .ok (placed ocm ea (t.physical ea) t.attr) s

/-- Mode selection, translation, attributes and protection of one data access (20_memory.md R142 stages 1 to 4). -/
def dataCheck (k : AccKind) (ea : Word) (s : State) : Checked :=
  if s.dr then
    match s.searchTlb s.dtlbOld ea with
    | (.miss, t) => .exc (.dataTlbMiss (k == .store) ea) t
    | (.multiple, _) => .fault .multipleTlbHits
    | (.hit p, t) => usePage (ocmHolds s.env.dataOcm ea) p ea (s.dataPermission k p ea) t
  else if k == .store && (s.realDataAttr ea).u0 && s.u0xe then .exc (.dataStorage true false true ea) s
  else .ok (placed (ocmHolds s.env.dataOcm ea) ea ea (s.realDataAttr ea)) s

/-- The same for an instruction fetch. In real mode nothing fails (20_memory.md R154, D11). -/
def fetchCheck (ea : Word) (s : State) : Checked :=
  if s.ir then
    match s.searchTlb s.itlbOld ea with
    | (.miss, t) => .exc .instrTlbMiss t
    | (.multiple, _) => .fault .multipleTlbHits
    | (.hit p, t) => usePage (ocmHolds s.env.instrOcm ea) p ea (s.fetchPermission p) t
  else .ok (placed (ocmHolds s.env.instrOcm ea) ea ea (s.realFetchAttr ea)) s

end Sys2Proof.Machine
end

