-- ==== Sys2Proof/Machine/Cache.lean ====
section
/-! DEFINITION. Machine/Cache.lean: the bus, the data cache, the data fill buffer and the instruction side (20_memory.md R160 to
R185). -/

namespace Sys2Proof.Machine

/-! ### The bus -/

/-- Whether a physical address lies in a range of the memory map. -/
def MapRange.holds (r : MapRange) (a : Word) : Bool := decide ((a - r.base).toNat < r.size)

/-- What stands behind physical address `a`: memory, unless the platform says otherwise (20_memory.md R140, D3). -/
def State.memKind (s : State) (a : Word) : MemKind :=
  match s.env.map.find? (fun r => r.holds a) with
  | some r => r.kind
  | none => .ram

/-- Whether one of `n` bytes from physical address `a` on is of a kind. -/
def State.anyKind (s : State) (k : MemKind) (a : Word) (n : Nat) : Bool :=
  (List.range n).any fun i => s.memKind (a + BitVec.ofNat 32 i) == k

/-- Whether a bus access to `n` bytes from physical address `a` on answers with an error: where one of them does (20_memory.md R185,
D3). -/
def State.busError (s : State) (a : Word) (n : Nat) : Bool := s.anyKind .vacant a n

/-- The same for the block that physical address `a` lies in. -/
def State.lineError (s : State) (a : Word) : Bool := s.busError (lineAlign a) 32

/-- Whether there is memory, read-only or not, behind physical address `a`. -/
def State.isMemory (s : State) (a : Word) : Bool := s.memKind a == .ram || s.memKind a == .rom

/-- A byte read over the bus: that of memory, else a free one (log entry 3). -/
def busByte (a : Word) (s : State) : Byte × State := if s.isMemory a then (s.mem.read a, s) else drawByte s

/-- `n` bytes read over the bus from physical address `a` on. -/
def busRead (a : Word) : Nat → State → List Byte × State
  | 0, s => ([], s)
  | n + 1, s =>
    let b := busByte a s
    let r := busRead (a + 1#32) n b.2
    (b.1 :: r.1, r.2)

/-- The 32 bytes of a block read over the bus. -/
def busReadLine (a : Word) (s : State) : BitVec 256 × State :=
  let r := busRead (lineAlign a) 32 s
  (lineOfBytes r.1, r.2)

/-- A data bus error is reported (60_exceptions.md R766): it is pending until some later boundary, and a Virtex-4 records MCS,
DPLBE and, freely, IMCE in MCSR. -/
def reportDataError (s : State) : State :=
  if s.virtex4 then
    let r := drawBool s
    { r.2 with spr := { r.2.spr with mcsr := s.spr.mcsr ||| 0xA0000000#32 ||| oneBit 8 r.1 }, dataMC := true }
  else { s with dataMC := true }

/-- The words of `n` consecutive word addresses from `a` on that differ between two memories, as they are in the first. -/
def changedWords (m m' : Memory) (a : Word) : Nat → List (Nat × Word)
  | 0 => []
  | n + 1 =>
    if m.readWord a = m'.readWord a then changedWords m m' (a + 4#32) n
    else (wordOf a, m.readWord a) :: changedWords m m' (a + 4#32) n

/-- Bytes written to system memory from physical address `a` on, those that are given. The instruction side may still see the old
words, at least until a `sync` (R183). -/
def writeSys (a : Word) (bs : List (Option Byte)) (s : State) : State :=
  let m := s.mem.writeSome a bs
  { s with
    mem := m
    oldMem := s.oldMem ++ changedWords s.mem m (wordAlign a) ((a.toNat % 4 + bs.length + 3) / 4) }

/-- Which of the bytes of a bus write reach memory: not those at read-only memory and devices; where the access met an error
(`failed`) it is free for each of the others (U11). -/
def acceptedBytes (failed : Bool) (a : Word) : List Byte → State → List (Option Byte) × State
  | [], s => ([], s)
  | b :: bs, s =>
    let d := if failed then drawBool s else (true, s)
    let r := acceptedBytes failed (a + 1#32) bs d.2
    ((if d.1 && (s.memKind a == .ram || s.memKind a == .vacant) then some b else none) :: r.1, r.2)

/-- A bus write. An error is reported (R185); a write to an address with nothing behind it is a programming error (R181, U34). It is
free what is written if the bus answers with an error, or if the line fill that the write follows did (`failed`). -/
def busWrite (failed : Bool) (a : Word) (bs : List Byte) (s : State) : Res Unit :=
  if s.anyKind .absent a bs.length then .fault .writeToNothing
  else
    let e := s.busError a bs.length
    let r := acceptedBytes (failed || e) a bs (if e then reportDataError s else s)
    .ok () (writeSys a r.1 r.2)

/-! ### The data cache -/

/-- A way of a congruence class. -/
inductive Way where
  | a
  | b
  deriving DecidableEq, Repr

/-- The other way. -/
def Way.other : Way → Way
  | .a => .b
  | .b => .a

/-- The way that an LRU bit names: 0 way A, 1 way B (R161). -/
def lruWay (lru : Bool) : Way := if lru then .b else .a

/-- The data-cache tag of a physical address: RA[0:18] (R160). -/
def dTag (ra : Word) : BitVec 19 := ra.extractLsb' 13 19

/-- The instruction-cache tag of a physical address: RA[0:21] (R160). -/
def iTag (ra : Word) : BitVec 22 := ra.extractLsb' 10 22

/-- The congruence class of the data cache with index `i`. -/
def State.dClass (s : State) (i : BitVec 8) : DClass := s.dcache[i.toNat]'(i.isLt)

/-- The state with a congruence class of the data cache replaced. -/
def State.setDClass (s : State) (i : BitVec 8) (c : DClass) : State :=
  { s with dcache := s.dcache.set i.toNat c i.isLt }

/-- A line of a class. -/
def DClass.line (c : DClass) : Way → DLine
  | .a => c.wayA
  | .b => c.wayB

/-- A class with a line replaced. -/
def DClass.setLine (c : DClass) (w : Way) (l : DLine) : DClass :=
  match w with
  | .a => { c with wayA := l }
  | .b => { c with wayB := l }

/-- An access of a way makes the other way least recently used (R161). -/
def DClass.touch (c : DClass) (w : Way) : DClass := { c with lru := w == .a }

/-- The way of a class that holds a tag, if any. Where software has made duplicates, which correct use never does, the spec does
not say which way hits: here way A (DESIGN CHOICE, unsafe, log entry 31). -/
def DClass.find (c : DClass) (t : BitVec 19) : Option Way :=
  if c.wayA.valid && c.wayA.tag == t then some .a else if c.wayB.valid && c.wayB.tag == t then some .b else none

/-- `DHit(RA)` (46_cache_tlb.md R700(g)). -/
def State.dHit (s : State) (ra : Word) : Option Way := (s.dClass (classIndex ra)).find (dTag ra)

/-- The address of a data-cache line: tag ‖ index ‖ 0b00000 (R170). -/
def dLineAddr (t : BitVec 19) (i : BitVec 8) : Word := t ++ i ++ 0#5

/-- The 32 bytes of a line written to memory if the line is valid and dirty (R170). -/
def writeBack (i : BitVec 8) (w : Way) (s : State) : Res Unit :=
  let l := (s.dClass i).line w
  if l.valid && l.dirty then busWrite false (dLineAddr l.tag i) (lineBytes l.data 0 32) s else .ok () s

/-- The way that a line fill replaces: the least recently used one, or, freely, the other if that is not valid (R161, U13; log entry
13). A line just established is not replaced while the other way is not valid (R180). -/
def dVictim (i : BitVec 8) (s : State) : Way × State :=
  let c := s.dClass i
  let w := lruWay c.lru
  if (c.line w.other).valid then (w, s)
  else
    let r := drawBool s
    (if r.1 then w.other else w, r.2)

/-- A line placed in the data cache, the replaced line cast out first if it is dirty (R170). -/
def dAllocate (ra : Word) (data : BitVec 256) (dirty : Bool) (s : State) : Res Unit :=
  let i := classIndex ra
  let v := dVictim i s
  (writeBack i v.1 v.2).bind fun _ t =>
    .ok () (t.setDClass i
      (((t.dClass i).setLine v.1 { valid := true, dirty := dirty, tag := dTag ra, data := data }).touch v.1))

/-- A cacheline fill from memory (R164). It takes the fill buffer. A bus error is reported, and no line is placed. -/
def dFill (ra : Word) (s : State) : Res Unit :=
  if s.lineError ra then .ok () (reportDataError { s with dfb := none })
  else
    let r := busReadLine ra { s with dfb := none }
    dAllocate ra r.1 false r.2

/-- A line invalidated; the class's LRU bit is free afterwards (R161, U13). -/
def dInvalidate (i : BitVec 8) (w : Way) (s : State) : State :=
  let r := drawBool s
  let c := r.2.dClass i
  r.2.setDClass i { (c.setLine w { c.line w with valid := false, dirty := false }) with lru := r.1 }

/-- The data fill buffer emptied if it holds physical address `ra` (R166). -/
def dropFillBuffer (ra : Word) (s : State) : State :=
  match s.dfb with
  | none => s
  | some f => if f.block = blockOf ra then { s with dfb := none } else s

/-- CCR0[LWL], [LWOA], [SWOA], [FWOA] in force (10_state.md R108). -/
def State.lwl (s : State) : Bool := bit (s.inForce .ccr0) 6
/-- CCR0[LWOA]. -/
def State.lwoa (s : State) : Bool := bit (s.inForce .ccr0) 7
/-- CCR0[SWOA]. -/
def State.swoa (s : State) : Bool := bit (s.inForce .ccr0) 8
/-- CCR0[FWOA]. -/
def State.fwoa (s : State) : Bool := bit (s.inForce .ccr0) 23

/-- What a load within one word receives: its bytes, and whether the bus answered with an error, so that they are free (U11). -/
structure Received where
  bytes : List Byte
  error : Bool
  deriving DecidableEq, Repr

/-- Bytes that come without an error. -/
def goodBytes (bs : List Byte) : Received := { bytes := bs, error := false }

/-- The result of a read without an error. -/
def received (r : List Byte × State) : Received × State := (goodBytes r.1, r.2)

/-- `n` free bytes, received with an error. -/
def receivedError (n : Nat) (s : State) : Received × State :=
  let r := drawBytes n s
  ({ bytes := r.1, error := true }, r.2)

/-- What a load receives whose bus access met an error: it is reported, and the value is free (U11). -/
def failedLoad (n : Nat) (s : State) : Received × State := receivedError n (reportDataError { s with dfb := none })

/-- A load of `n` bytes, within one word, that does not go through the cache (R164, R166): from the fill buffer if it holds
them; else from memory, as a whole line into the fill buffer if CCR0[LWL] = 1 and the storage is not guarded non-cacheable
storage. -/
def uncachedLoad (x : Xlat) (n : Nat) (s : State) : Received × State :=
  match s.dfb.filter (fun f => f.block == blockOf x.ra) with
  | some f => received (lineBytes f.data (lineOffset x.ra) n, s)
  | none =>
    if s.lwl && !(x.attr.i && x.attr.g) then
      if s.lineError x.ra then failedLoad n s
      else
        let r := busReadLine x.ra s
        received (lineBytes r.1 (lineOffset x.ra) n, { r.2 with dfb := some { block := blockOf x.ra, data := r.1 } })
    else if s.busError x.ra n then failedLoad n s
    else received (busRead x.ra n { s with dfb := none })

/-- The bytes of a data-cache line that hits, and the state with the line marked recently used. -/
def hitLoad (x : Xlat) (n : Nat) (w : Way) (s : State) : List Byte × State :=
  let i := classIndex x.ra
  (lineBytes ((s.dClass i).line w).data (lineOffset x.ra) n, s.setDClass i ((s.dClass i).touch w))

/-- A load of `n` bytes within one word (R164, R166, R167), from the on-chip memory if it is there (D6). A line that is in the cache
while the address is marked caching-inhibited is a programming error (R152). -/
def loadPart (x : Xlat) (n : Nat) (s : State) : Res Received :=
  if x.ocm then .ok (goodBytes (s.dataOcm.readBytes x.ra n)) s
  else if x.attr.i then
    if (s.dHit x.ra).isSome then .fault .cachedWhileInhibited
    else
      let r := uncachedLoad x n s
      .ok r.1 r.2
  else
    match s.dHit x.ra with
    | some w =>
      let r := received (hitLoad x n w s)
      .ok r.1 r.2
    | none =>
      if s.lwoa then
        let r := uncachedLoad x n s
        .ok r.1 r.2
      else
        (dFill x.ra s).bind fun _ t =>
          match t.dHit x.ra with
          | some w =>
            let r := received (hitLoad x n w t)
            .ok r.1 r.2
          | none =>
            let r := receivedError n t
            .ok r.1 r.2

/-- Bytes written into a data-cache line; a write-back store marks it dirty, a write-through one does not (R165). -/
def hitStore (x : Xlat) (bs : List Byte) (w : Way) (s : State) : State :=
  let i := classIndex x.ra
  let c := s.dClass i
  let l := c.line w
  s.setDClass i ((c.setLine w
    { l with data := setLineBytes l.data (lineOffset x.ra) bs, dirty := l.dirty || !x.attr.w }).touch w)

/-- A store of bytes within one word: the table of R165; to the on-chip memory if the address is there (D6). It empties the fill
buffer if that holds the address (R166). -/
def storePart (x : Xlat) (bs : List Byte) (s0 : State) : Res Unit :=
  let s := dropFillBuffer x.ra s0
  if x.ocm then .ok () { s0 with dataOcm := s0.dataOcm.writeBytes x.ra bs }
  else if x.attr.i then
    if (s.dHit x.ra).isSome then .fault .cachedWhileInhibited else busWrite false x.ra bs s
  else
    match s.dHit x.ra with
    | some w =>
      if x.attr.w then busWrite false x.ra bs (hitStore x bs w s) else .ok () (hitStore x bs w s)
    | none =>
      if x.attr.w || s.swoa then busWrite false x.ra bs s
      else
        (dFill x.ra s).bind fun _ t =>
          match t.dHit x.ra with
          | some w => .ok () (hitStore x bs w t)
          | none => busWrite true x.ra bs t

/-- The byte the processor's data side sees at physical address `a` when the fill buffer is empty: the data-cache copy if there
is one, else system memory (R143). -/
def State.dataByte (s : State) (a : Word) : Byte :=
  match s.dHit a with
  | some w => lineByte ((s.dClass (classIndex a)).line w).data (lineOffset a)
  | none => s.mem.read a

/-! ### The instruction side -/

/-- The congruence class of the instruction cache with index `i`. -/
def State.iClass (s : State) (i : BitVec 8) : IClass := s.icache[i.toNat]'(i.isLt)

/-- The state with a congruence class of the instruction cache replaced. -/
def State.setIClass (s : State) (i : BitVec 8) (c : IClass) : State :=
  { s with icache := s.icache.set i.toNat c i.isLt }

/-- A line of a class. -/
def IClass.line (c : IClass) : Way → ILine
  | .a => c.wayA
  | .b => c.wayB

/-- A class with a line replaced. -/
def IClass.setLine (c : IClass) (w : Way) (l : ILine) : IClass :=
  match w with
  | .a => { c with wayA := l }
  | .b => { c with wayB := l }

/-- An access of a way makes the other way least recently used (R161). -/
def IClass.touch (c : IClass) (w : Way) : IClass := { c with lru := w == .a }

/-- `IHit(EA, RA)`: indexed by the effective address, tagged by the physical one (R160, 46_cache_tlb.md R700(g)). Of duplicates
way A hits (DESIGN CHOICE, unsafe, log entry 31). -/
def State.iHit (s : State) (ea ra : Word) : Option Way :=
  let c := s.iClass (classIndex ea)
  if c.wayA.valid && c.wayA.tag == iTag ra then some .a
  else if c.wayB.valid && c.wayB.tag == iTag ra then some .b
  else none

/-- The words at a physical word address that a list of older words names. -/
def wordsAt (old : List (Nat × Word)) (ra : Word) : List Word := (old.filter (fun p => p.1 == wordOf ra)).map Prod.snd

/-- The word of system memory at a physical word address, where there is memory. -/
def State.memCopies (s : State) (ra : Word) : List Word :=
  if (List.range 4).all fun k => s.isMemory (ra + BitVec.ofNat 32 k) then [s.mem.readWord ra] else []

/-- The copies of a word besides the one in system memory that a bus read by the instruction side may give: the data cache's, and
those from before a write that may not have completed (R163, R182, R183). The bytes are as they lie in memory. -/
def State.busCopies (s : State) (ra : Word) : List Word :=
  (match s.dHit ra with
    | some w => [lineWord ((s.dClass (classIndex ra)).line w).data (lineOffset ra / 4)]
    | none => []) ++ wordsAt s.oldMem ra

/-- The instruction words that lines no longer in the instruction cache hold for a physical word address (46_cache_tlb.md R710,
R712). -/
def State.lineCopies (s : State) (ra : Word) : List Word :=
  (s.oldLines.filter (fun l => l.block == blockOf ra)).map (fun l => lineWord l.data (lineOffset ra / 4))

/-- One of several copies of an instruction word: `now`, or, freely, another one that differs (R183, U14). -/
def pickWord (now : Word) (others : List Word) (s : State) : Word × State :=
  match others.filter (fun w => w != now) with
  | [] => (now, s)
  | o :: os =>
    let r := drawBelow (os.length + 2) s
    ((o :: os).getD r.1 now, r.2)

/-- The word that the bus reads at a physical word address, byte by byte. -/
def memWord (ra : Word) (s : State) : Word × State :=
  let a := busByte ra s
  let b := busByte (ra + 1#32) a.2
  let c := busByte (ra + 2#32) b.2
  let d := busByte (ra + 3#32) c.2
  (a.1 ++ b.1 ++ c.1 ++ d.1, d.2)

/-- The instruction word of a word in memory: its bytes reversed if the storage is little-endian (R149). -/
def endianWord (e : Bool) (w : Word) : Word := if e then byteReverse w else w

/-- `n` consecutive instruction words as a line fill reads them. -/
def codeWords (e : Bool) (ra : Word) : Nat → State → List Word × State
  | 0, s => ([], s)
  | n + 1, s =>
    let m := memWord ra s
    let r := pickWord m.1 (m.2.busCopies ra) m.2
    let t := codeWords e (ra + 4#32) n r.2
    (endianWord e r.1 :: t.1, t.2)

/-- The way that an instruction-cache fill replaces, as `dVictim`. -/
def iVictim (i : BitVec 8) (s : State) : Way × State :=
  let c := s.iClass i
  let w := lruWay c.lru
  if (c.line w.other).valid then (w, s)
  else
    let r := drawBool s
    (if r.1 then w.other else w, r.2)

/-- The physical block of an instruction-cache line: its tag and, since a page has at least 1 KB, the low-order bits of its index
(R160). -/
def iBlock (i : BitVec 8) (t : BitVec 22) : Nat := (t ++ i.extractLsb' 0 5).toNat

/-- What is left of a line that leaves the instruction cache: its words may still be in the fetch queue. -/
def ILine.left (l : ILine) (i : BitVec 8) : List OldLine :=
  if l.valid then [{ block := iBlock i l.tag, data := l.data }] else []

/-- A line placed in way `w` of a class of the instruction cache; the line that stood there leaves it. -/
def placeILine (i : BitVec 8) (w : Way) (l : ILine) (s : State) : State :=
  let c := s.iClass i
  ({ s with oldLines := s.oldLines ++ (c.line w).left i } : State).setIClass i ((c.setLine w l).touch w)

/-- An instruction-cacheline fill from memory, the words put in big-endian order as they come in (R149, R162). -/
def iFill (ea ra : Word) (e : Bool) (s : State) : State :=
  let r := codeWords e (lineAlign ra) 8 s
  let v := iVictim (classIndex ea) r.2
  placeILine (classIndex ea) v.1 { valid := true, tag := iTag ra, data := lineOfWords r.1, little := e } v.2

/-- An instruction-cache line invalidated; the class's LRU bit is free afterwards (R161, U13). -/
def iInvalidate (i : BitVec 8) (w : Way) (s : State) : State :=
  let r := drawBool s
  let c := r.2.iClass i
  ({ r.2 with oldLines := r.2.oldLines ++ (c.line w).left i } : State).setIClass i
    { (c.setLine w { c.line w with valid := false }) with lru := r.1 }

/-- The word at byte offset EA[27:29] ‖ 0b00 of an instruction-cache line, and the state with the line marked recently used. Where
memory, the data cache or an older copy has another word than the line was filled with, it is freely that one (R183); a change of
the E attribute alone leaves the line's word (R149). -/
def hitFetch (ea : Word) (x : Xlat) (w : Way) (s : State) : Word × State :=
  let i := classIndex ea
  let l := (s.iClass i).line w
  let now := lineWord l.data (lineOffset ea / 4)
  let a := wordAlign x.ra
  let others := (s.memCopies a ++ s.busCopies a ++ wordsAt s.oldCode a).filter (fun v => endianWord l.little v != now)
  pickWord now (others.map (endianWord x.attr.e) ++ s.lineCopies a) (s.setIClass i ((s.iClass i).touch w))

/-- The instruction word that a fetch from the bus gives, or, freely, an older one (R163, R171, R183). -/
def busFetchWord (x : Xlat) (s : State) : Word × State :=
  let a := wordAlign x.ra
  let m := memWord a { s with busFetch := true }
  pickWord (endianWord x.attr.e m.1)
    ((s.busCopies a ++ wordsAt s.oldCode a).map (endianWord x.attr.e) ++ s.lineCopies a) m.2

/-- The result of fetching an instruction. -/
inductive Fetched where
  /-- The instruction word. -/
  | word (w : Word) (s : State)
  /-- A TLB miss or an instruction-storage exception. -/
  | exc (e : Exc) (s : State)
  /-- The bus answered with an error (60_exceptions.md R766). -/
  | busError (s : State)
  | fault (f : Fault)
  deriving Repr

/-- Whether the bus answers with an error for the instruction word at physical address `ra`. -/
def State.wordError (s : State) (ra : Word) : Bool := s.busError (wordAlign ra) 4

/-- A fetch from a line of the instruction cache. If the bus answered with an error for part of the line, the fetch of a word with the
error meets it, and that of another word, freely, too ("any instruction later executed from the cacheline can cause the exception",
R185); the line is then invalidated. -/
def fetchLine (ea : Word) (x : Xlat) (w : Way) (s : State) : Fetched :=
  if s.lineError x.ra then
    let d := drawBool s
    if s.wordError x.ra || d.1 then .busError (iInvalidate (classIndex ea) w d.2)
    else
      let r := hitFetch ea x w d.2
      .word r.1 r.2
  else
    let r := hitFetch ea x w s
    .word r.1 r.2

/-- `Fetch(EA)` (R145): translation and protection, then the on-chip memory if it is there (D6), else the instruction cache if the
storage is cacheable (a miss fills a line unless CCR0[FWOA] = 1, R162, R169), else memory (R163). Where the bus answers with an error
for the word, no line is placed (R185). Between a change of CCR0[IPP, FWOA] and the next context synchronization no fetch may use the bus
(70_reset_and_hazards.md R950). -/
def fetch (ea : Word) (s : State) : Fetched :=
  match fetchCheck ea s with
  | .exc e t => .exc e t
  | .fault f => .fault f
  | .ok x t =>
    if x.ocm then .word (endianWord x.attr.e (t.instrOcm.readWord (wordAlign x.ra))) t
    else
      match t.iHit ea x.ra with
      | some w =>
        if x.attr.i then .fault .cachedWhileInhibited else fetchLine ea x w t
      | none =>
        if t.ccr0Open then .fault .ccr0OutsideSequence
        else if t.wordError x.ra then .busError t
        else if x.attr.i || t.fwoa then
          let r := busFetchWord x t
          .word r.1 r.2
        else
          let u := iFill ea x.ra x.attr.e { t with busFetch := true }
          match u.iHit ea x.ra with
          | some w => fetchLine ea x w u
          | none => .busError u

end Sys2Proof.Machine
end

