-- ==== Sys2Proof/Machine/Debug.lean ====
section
/-! DEFINITION. Machine/Debug.lean: which debug events an instruction or an access causes (61_timers_debug.md R872 to R883).
What an event does is `debugEvent` of Machine/Ops.lean. -/

namespace Sys2Proof.Machine

/-! ### Data address compare and data value compare -/

/-- Whether an address matches DAC register `two` (false: DAC1, true: DAC2): the range if DBCR1[DA12] = 1, else an exact match
at the granularity of DBCR1[DnS] (R875). -/
def dacHit (two : Bool) (a : Word) (d : DebugRegs) : Bool :=
  if bit d.dbcr1 8 then
    if bit d.dbcr1 9 then a.ult d.dac1 || d.dac2.ule a else d.dac1.ule a && a.ult d.dac2
  else
    let size := if two then bits d.dbcr1 6 2 else bits d.dbcr1 4 2
    let drop := if size = 0#2 then 0 else if size = 1#2 then 1 else if size = 2#2 then 2 else 5
    (a >>> drop) == ((if two then d.dac2 else d.dac1) >>> drop)

/-- Whether an access of an address, a write or a read, matches an enabled DAC register. -/
def dacMatch (write two : Bool) (a : Word) (d : DebugRegs) : Bool :=
  bit d.dbcr1 ((if two then 1 else 0) + (if write then 2 else 0)) && dacHit two a d

/-- DVC events are enabled for a register by a non-zero byte-enable field: DBCR1[DV1BE], DBCR1[DV2BE] (R876). -/
def dvcEnabled (two : Bool) (d : DebugRegs) : Bool :=
  (if two then bits d.dbcr1 20 4 else bits d.dbcr1 16 4) != 0#4

/-- The DBSR bit of a DAC or DVC event: DR1, DW1, DR2, DW2 are bits 7 to 10 (10_state.md R118). -/
def dacStatus (write two : Bool) : Word :=
  oneBit (7 + (if two then 2 else 0) + (if write then 1 else 0)) true

/-- The DBSR bits of the DAC events of one address: those of the registers that match and have no DVC enabled. -/
def dacBits (write : Bool) (d : DebugRegs) (a : Word) : Word :=
  (if dacMatch write false a d && !dvcEnabled false d then dacStatus write false else 0#32) |||
    (if dacMatch write true a d && !dvcEnabled true d then dacStatus write true else 0#32)

/-- The DAC check of an instruction that accesses the given addresses: one debug event for all that match, before the access
(R875). -/
def dacCheck (write : Bool) (as : List Word) (s : State) : Res Unit :=
  let ev := (as.map (dacBits write s.debugNow)).foldl (· ||| ·) 0#32
  if ev = 0#32 then .ok () s else (debugEvent ev s.pc s).toRes

/-- Whether a data value matches a DVC register: the modes AND, OR and AND-OR of R876; none for mode 00, which is undefined
(U27). -/
def dvcValue (two : Bool) (v : Word) (d : DebugRegs) : Option Bool :=
  let be := if two then bits d.dbcr1 20 4 else bits d.dbcr1 16 4
  let mode := if two then bits d.dbcr1 14 2 else bits d.dbcr1 12 2
  let r := if two then d.dvc2 else d.dvc1
  let sel (i : Nat) : Bool := be.getLsbD (3 - i)
  let eq (i : Nat) : Bool := bits v (8 * i) 8 == bits r (8 * i) 8
  let m (i : Nat) : Bool := sel i && eq i
  if mode = 0#2 then none
  else if mode = 1#2 then some ((!sel 0 || eq 0) && (!sel 1 || eq 1) && (!sel 2 || eq 2) && (!sel 3 || eq 3))
  else if mode = 2#2 then some (m 0 || m 1 || m 2 || m 3)
  else some ((m 0 && m 1) || (m 2 && m 3))

/-- The DVC check of one DVC register for one access. The value is known for a word-aligned word; for any other access, and in
mode 00, it is free whether the event occurs (R876 does not say how the bytes line up). -/
def dvcOne (write two : Bool) (a : Word) (v : Option Word) (s : State) : Bool × State :=
  if dacMatch write two a s.debugNow && dvcEnabled two s.debugNow then
    match v.bind (fun w => dvcValue two w s.debugNow) with
    | some b => (b, if b then { s with dvcBits := s.dvcBits ||| dacStatus write two } else s)
    | none =>
      let r := drawBool s
      (r.1, if r.1 then { r.2 with dvcBits := s.dvcBits ||| dacStatus write two } else r.2)
  else (false, s)

/-- The DVC check of one access; its events are recorded in `dvcBits` until the instruction ends. -/
def dvcCheck (write : Bool) (a : Word) (v : Option Word) (s : State) : Bool × State :=
  let r := dvcOne write false a v s
  let t := dvcOne write true a v r.2
  (r.1 || t.1, t.2)

/-- Whether a debug event now would stop the processor or interrupt it (R870). -/
def State.debugHalts (s : State) : Bool := s.edm || (s.idm && s.de) || (!s.idm && s.dwe)

/-! ### Instruction address compare -/

/-- The range match of a pair of IAC registers, inclusive or exclusive (R872). -/
def iacRange (exclusive : Bool) (lo hi pc : Word) : Bool :=
  if exclusive then pc.ult lo || hi.ule pc else lo.ule pc && pc.ult hi

/-- The DBSR bits of a pair of IAC registers: the range if the pair's range bit is 1, else exact matches of the word addresses.
`e1` and `e2` are the enables, `b1` and `b2` the status bits. -/
def iacPair (range exclusive e1 e2 : Bool) (r1 r2 pc : Word) (b1 b2 : Nat) : Word :=
  if range then
    if (e1 || e2) && iacRange exclusive r1 r2 pc then oneBit b1 e1 ||| oneBit b2 e2 else 0#32
  else oneBit b1 (e1 && wordAlign r1 == wordAlign pc) ||| oneBit b2 (e2 && wordAlign r2 == wordAlign pc)

/-- DBSR[IA1, IA2] for the instruction at `pc`. -/
def iac12 (d : DebugRegs) (pc : Word) : Word :=
  iacPair (bit d.dbcr0 10) (bit d.dbcr0 11) (bit d.dbcr0 8) (bit d.dbcr0 9) d.iac1 d.iac2 pc 5 6

/-- DBSR[IA3, IA4] for the instruction at `pc`. -/
def iac34 (d : DebugRegs) (pc : Word) : Word :=
  iacPair (bit d.dbcr0 14) (bit d.dbcr0 15) (bit d.dbcr0 12) (bit d.dbcr0 13) d.iac3 d.iac4 pc 12 13

/-- The range senses in DBCR0, of the pairs whose range matched and whose toggle is on (R872). -/
def toggleIac (d : DebugRegs) (pc : Word) : Word :=
  let t12 := bit d.dbcr0 10 && bit d.dbcr0 16 && iac12 d pc != 0#32
  let t34 := bit d.dbcr0 14 && bit d.dbcr0 17 && iac34 d pc != 0#32
  oneBit 11 t12 ||| oneBit 15 t34

/-- The given range senses of DBCR0 inverted, in its contents and in every older value that may be in force (log entry 11). -/
def invertIac (m : Word) (s : State) : State :=
  { s with
    dbg := { s.dbg with dbcr0 := s.dbg.dbcr0 ^^^ m }
    stale := s.stale.map (fun e => if e.reg = .dbcr0 then { e with old := e.old ^^^ m } else e) }

/-- Whether an IAC event can be imprecise: not where every range that matched toggles while internal mode is on (R883). -/
def State.iacImprecise (s : State) : Bool :=
  let d := s.debugNow
  let plain12 := iac12 d s.pc != 0#32 && !(bit d.dbcr0 10 && bit d.dbcr0 16)
  let plain34 := iac34 d s.pc != 0#32 && !(bit d.dbcr0 14 && bit d.dbcr0 17)
  !s.idm || plain12 || plain34

/-- The IAC check before the instruction at `pc` (R872). Where toggling is on for the range that matched, internal mode is on,
debug interrupts are disabled and external mode is off, no DBSR bit is set, the timers freeze (R878), and it is free whether the range
sense toggles (91_not_in_source.md N61.7). -/
def iacCheck (s : State) : Debugged :=
  let d := s.debugNow
  let quiet12 := bit d.dbcr0 10 && bit d.dbcr0 16 && s.quietDebug
  let quiet34 := bit d.dbcr0 14 && bit d.dbcr0 17 && s.quietDebug
  let hit := iac12 d s.pc ||| iac34 d s.pc
  let ev := (if quiet12 then 0#32 else iac12 d s.pc) ||| (if quiet34 then 0#32 else iac34 d s.pc)
  if hit = 0#32 then .goOn s
  else if toggleIac d s.pc = 0#32 then debugEventWith s.de s.iacImprecise ev s.pc s
  else
    let t : State :=
      if s.quietDebug then
        let r := drawBool s
        if r.1 then invertIac (toggleIac d s.pc) r.2 else r.2
      else invertIac (toggleIac d s.pc) s
    if ev = 0#32 then .goOn (freezeTimers t) else debugEventWith s.de s.iacImprecise ev s.pc t

/-! ### Branches, traps and completion -/

/-- The branch-taken event, before a taken branch executes (R877); imprecise only where internal mode is off (R883). Where it sets no
DBSR bit (R871) it freezes the timers all the same (R878). -/
def branchTaken (s : State) : Res Unit :=
  if bit s.debugNow.dbcr0 5 then
    if s.quietDebug then .ok () (freezeTimers s) else (debugEventWith s.de (!s.idm) (oneBit 1 true) s.pc s).toRes
  else .ok () s

/-- A trap instruction whose condition holds (`TRAP()` of 40_branch_cr_system.md R398; 60_exceptions.md R774): with DBCR0[TDE] = 1 the
trap event first; the program exception follows if the event does not stop or interrupt. In external mode the event is imprecise only
where internal mode is on too. With internal and external mode off the program exception follows whatever MSR[DWE] is, as R398 and the
instruction's page have it; 61_timers_debug.md R880 would stop in debug-wait there (DEDUCED from the order of authority of
90_conflicts.md, log entry 32). -/
def trapTaken (s : State) : Out :=
  if bit s.debugNow.dbcr0 7 then
    if !s.idm && !s.edm then trapTo .programTrap (recordDebug (!s.de) (oneBit 3 true) s)
    else match debugEventWith s.de (!s.edm || s.idm) (oneBit 3 true) s.pc s with
    | .goOn t => trapTo .programTrap t
    | .halted t => .next t
  else trapTo .programTrap s

/-- The events after an instruction completed: DVC events it met, and instruction-complete (R876, R879). Debug interrupts are
enabled or disabled as MSR[DE] was before the instruction, `de`: what `rfci` restores counts for the instruction it returns to
(R879; DESIGN CHOICE for other instructions that write MSR[DE], log entry 10). Whether the event stops the processor in debug-wait goes
by MSR[DWE] as it is after the instruction: the spec does not say which value counts (DESIGN CHOICE, unsafe, log entry 10). Whether
these events, of priority 15 in Table 7-2, come before a critical input or watchdog request, of priority 5 and 6, that the instruction
itself newly enables, is not stated (60_exceptions.md R755): here they come first, in the same step (DESIGN CHOICE, unsafe, log entry
10). An instruction-complete event alone is imprecise only where internal mode is off (R883); where it sets no DBSR bit (R871) it freezes the
timers all the same (R878). -/
def completionEvents (de : Bool) (s : State) : State :=
  let on := bit s.debugNow.dbcr0 4
  let ev := s.dvcBits ||| oneBit 0 (on && !(s.idm && !de && !s.edm))
  if ev = 0#32 then (if on then freezeTimers s else s)
  else (debugEventWith de (s.dvcBits != 0#32 || !s.idm) ev s.pc s).state

end Sys2Proof.Machine
end

