-- ==== Sys2Proof/Machine/Timers.lean ====
section
/-! DEFINITION. Machine/Timers.lean: reset, the time base and the timers (70_reset_and_hazards.md R930 to R934,
61_timers_debug.md R850 to R855). -/

namespace Sys2Proof.Machine

/-- The kinds of reset (R931). -/
inductive ResetKind where
  | processor
  | chip
  | system
  deriving DecidableEq, Repr

/-- The two-bit code of a reset kind, as DBSR[MRR], TSR[WRS], TCR[WRC] and DBCR0[RST] hold it. -/
def ResetKind.code : ResetKind → BitVec 2
  | .processor => 1#2
  | .chip => 2#2
  | .system => 3#2

/-- The reset a two-bit code names: none for 00. -/
def resetKindOf (c : BitVec 2) : Option ResetKind :=
  if c = 1#2 then some .processor else if c = 2#2 then some .chip else if c = 3#2 then some .system else none

/-- A reset of the processor (R933): every register as `State.reset` has it (log entry 1), DBSR[MRR] the kind, TSR[WRS] the
kind if the watchdog caused it. PVR, memory, on-chip memory and the environment stay; device control registers are reset by a chip or system
reset only (D7). The counter of free values goes on. -/
def resetProcessor (kind : ResetKind) (watchdog : Bool) (s : State) : State :=
  { State.reset with
    spr := { SpecialRegs.reset with pvr := s.spr.pvr }
    tmr := { TimerRegs.reset with tsr := if watchdog then kind.code.setWidth 32 <<< 28 else 0#32 }
    dbg := DebugRegs.reset (kind.code.setWidth 32 <<< 8)
    dcr := if kind = .processor then s.dcr else State.reset.dcr
    mem := s.mem
    dataOcm := s.dataOcm
    instrOcm := s.instrOcm
    env := s.env
    draws := s.draws
    retire := .reset }

/-- The TBL bit that TCR[FP] selects for the fixed-interval timer (R853). -/
def fitBit (tcr : Word) : Nat := 23 - 4 * (bits tcr 6 2).toNat

/-- The TBL bit that TCR[WP] selects for the watchdog (R854). -/
def watchdogBit (tcr : Word) : Nat := 15 - 4 * (bits tcr 0 2).toNat

/-- A bit goes from 0 to 1. -/
def rises (i : Nat) (old new : Word) : Bool := !bit old i && bit new i

/-- A fixed-interval time-out when the selected bit rises (R853). -/
def fitTimeout (old new : Word) (s : State) : State :=
  if rises (fitBit s.tmr.tcr) old new then { s with tmr := { s.tmr with tsr := setBit s.tmr.tsr 5 true } } else s

/-- A watchdog time-out when the selected bit rises: the state machine of R854 over TSR[ENW] and TSR[WIS]. -/
def watchdogTimeout (old new : Word) (s : State) : State :=
  if rises (watchdogBit s.tmr.tcr) old new then
    if !bit s.tmr.tsr 0 then { s with tmr := { s.tmr with tsr := setBit s.tmr.tsr 0 true } }
    else if !bit s.tmr.tsr 1 then { s with tmr := { s.tmr with tsr := setBit s.tmr.tsr 1 true } }
    else
      match resetKindOf (bits s.tmr.tcr 2 2) with
      | none => s
      | some k => resetProcessor k true s
  else s

/-- What a change of TBL from `old` to `new` causes, by counting or by a write (R850, D19): nothing while the timers are
frozen (R878). -/
def tblChanged (old new : Word) (s : State) : State :=
  if s.tmr.frozen then s else watchdogTimeout old new (fitTimeout old new s)

/-- The programmable-interval timer at a tick (R852). -/
def pitTick (s : State) : State :=
  if s.tmr.pit = 0#32 then s
  else if s.tmr.pit = 1#32 then
    { s with tmr := { s.tmr with
      pit := if bit s.tmr.tcr 9 then s.tmr.pitReload else 0#32
      tsr := setBit s.tmr.tsr 4 true } }
  else { s with tmr := { s.tmr with pit := s.tmr.pit - 1#32 } }

/-- The time base at a tick: TBL counts, and TBU when TBL rolls over (R850). -/
def timeBaseTick (s : State) : State :=
  { s with tmr := { s.tmr with
    tbl := s.tmr.tbl + 1#32
    tbu := if s.tmr.tbl = 0xFFFFFFFF#32 then s.tmr.tbu + 1#32 else s.tmr.tbu } }

/-- One tick of the timer clock (R850): nothing while the timers are frozen. -/
def tick (s : State) : State :=
  if s.tmr.frozen then s else tblChanged s.tmr.tbl (s.tmr.tbl + 1#32) (timeBaseTick (pitTick s))

/-- How many ticks a step brings (TB_CLOCK, D4; log entry 5). -/
def Clock.count : Clock → State → Nat × State
  | .every n, s => (n, s)
  | .free, s => (Config.freeNat s.draws, { s with draws := s.draws + 1 })

/-- `n` ticks. -/
def ticks : Nat → State → State
  | 0, s => s
  | n + 1, s => ticks n (tick s)

/-- The fixed-interval timer interrupt is pending and enabled (60_exceptions.md R756). -/
def fitRequest (s : State) : Bool := bit s.tmr.tsr 5 && bit s.tmr.tcr 8 && s.ee
/-- The programmable-interval timer interrupt is pending and enabled. -/
def pitRequest (s : State) : Bool := bit s.tmr.tsr 4 && bit s.tmr.tcr 5 && s.ee
/-- The watchdog interrupt is pending and enabled. -/
def watchdogRequest (s : State) : Bool := bit s.tmr.tsr 1 && bit s.tmr.tcr 4 && s.ce

end Sys2Proof.Machine
end

