-- ==== Sys2Proof/Machine/Boundary.lean ====
section
/-! DEFINITION. Machine/Boundary.lean: what happens at an instruction boundary (60_exceptions.md R755, R756, R796,
61_timers_debug.md R874, R882, R883): the requests by priority, the wait state, debug-wait. -/

namespace Sys2Proof.Machine

/-- The start of a step: the changes not yet in force have their chance to come into force; the records of the last
step are cleared. -/
def beginStep (s : State) : State := { s.settle with retire := .completed, dvcBits := 0#32, aheadFault := none }

/-- A data machine check (R766, priority 1). A reported bus error is acted on at this boundary or, freely, at a later one, but not
later than the boundary after a `sync` or `eieio`, which waits for the bus cycle (45_processor_control_sync.md R677); with
MSR[ME] = 0 nothing happens and the report is gone (R756). -/
def dataMachineCheck (s : State) : Debugged :=
  if s.dataMC then
    let r := if s.mcDue then (true, s) else drawBool s
    if r.1 then
      if s.me then .halted (takeInterrupt .machineCheckData s.pc { r.2 with dataMC := false, mcDue := false })
      else .goOn { r.2 with dataMC := false, mcDue := false }
    else .goOn r.2
  else .goOn s

/-- What an instruction machine check records on a Virtex-4: MCS and IPLBE (10_state.md R96). -/
def recordInstrError (s : State) : State :=
  if s.virtex4 then { s with spr := { s.spr with mcsr := s.spr.mcsr ||| 0xC0000000#32 } } else s

/-- An instruction machine check with MSR[ME] = 1 (R766, priority 3). -/
def instrMachineCheck (f : Fetched) : Option State :=
  match f with
  | .busError t => if t.me then some (takeInterrupt .machineCheckInstr t.pc (recordInstrError t)) else none
  | .word _ _ => none
  | .exc _ _ => none
  | .fault _ => none

/-- An instruction machine check with MSR[ME] = 0: ESR[MCI] is set (R766). -/
def instrErrorMasked (s : State) : State :=
  let t := recordInstrError s
  { t with spr := { t.spr with esr := setBit t.spr.esr 0 true } }

/-- A debug interrupt is pending: one that waits behind an external-debug stop, or an imprecise event (61_timers_debug.md R870,
R883). The request is gated by the contents of MSR[DE] and DBCR0[IDM] themselves: R883 gives a change of either its effect at the
next boundary. -/
def State.debugPending (s : State) : Bool := bit s.dbg.dbcr0 1 && s.de && (s.dbgPend || bit s.dbg.dbsr 11)

/-- The unconditional debug event and the pending debug interrupt, priority 4. Table 7-2 (60_exceptions.md R755) gives that rank to EDE
and UDE. DESIGN CHOICE (log entry 23): it ranks no delayed debug interrupt, and the model gives it the same rank, below a machine check
and above critical input and the watchdog; UDE comes before it. -/
def debugRequest (s : State) : Debugged :=
  if s.env.ude then debugEvent (oneBit 4 true) s.pc s
  else if s.debugPending then .halted (interruptEntry .debug s.pc { s with dbgPend := false })
  else .goOn s

/-- The critical requests: critical input (priority 5), watchdog (priority 6). -/
def criticalRequest (s : State) : Option Exc :=
  if s.env.critReq && s.ce then some .criticalInput
  else if watchdogRequest s then some .watchdog
  else none

/-- The noncritical requests: external (priority 16), FIT (17), PIT (18). -/
def lowRequest (s : State) : Option Exc :=
  if s.env.extReq && s.ee then some .external
  else if fitRequest s then some .fit
  else if pitRequest s then some .pit
  else none

/-- Whether a fault is met while the exceptions of an instruction are looked for, and not by what the instruction does. -/
def Fault.inTranslation : Fault → Bool
  | .multipleTlbHits => true
  | .rpnUnusedBits => true
  | .ocmPageTranslated => true
  | .multipleSearchHits => false
  | .cachedWhileInhibited => false
  | .cacheNotInvalidated => false
  | .ccr0OutsideSequence => false
  | .tlbNotInitialized => false
  | .writeToNothing => false

/-- What is done at a boundary whose instruction raises no exception: an enabled external, FIT or PIT request is taken, else `k`. -/
def orLowRequest (s : State) (k : Out) : Out :=
  match lowRequest s with
  | some e => .next (takeInterrupt e s.pc s)
  | none => k

/-- The requests of priority 4 to 6. -/
def urgentRequest (s : State) : Debugged :=
  match debugRequest s with
  | .halted t => .halted t
  | .goOn t =>
    match criticalRequest t with
    | some e => .halted (takeInterrupt e t.pc t)
    | none => .goOn t

/-- A step in the wait state (R796): the first enabled request is taken, else nothing happens. -/
def waitStep (s : State) : State :=
  match dataMachineCheck s with
  | .halted t => t
  | .goOn t =>
    match urgentRequest t with
    | .halted u => u
    | .goOn u =>
      match lowRequest u with
      | some e => takeInterrupt e u.pc u
      | none => u

/-- A step in debug-wait (61_timers_debug.md R874): an enabled critical-input or external request is taken. -/
def debugWaitStep (s : State) : State :=
  if s.env.critReq && s.ce then
    takeInterrupt .criticalInput s.pc { s with run := .running, dwLatched := true }
  else if s.env.extReq && s.ee then
    takeInterrupt .external s.pc { s with run := .running, dwLatched := true }
  else s

/-- A line with the word that holds byte offset `k` replaced. -/
def setLineWord (d : BitVec 256) (k : Nat) (w : Word) : BitVec 256 := setLineBytes d (k / 4 * 4) (bytesOf 4 w)

/-- The data-cache copy of a word replaced, if there is one. -/
def placeInDCache (ra v : Word) (s : State) : State :=
  match s.dHit ra with
  | some w =>
    let c := s.dClass (classIndex ra)
    let l := c.line w
    s.setDClass (classIndex ra) (c.setLine w { l with data := setLineWord l.data (lineOffset ra) v })
  | none => s

/-- The instruction-cache copy of a word replaced, if there is one. -/
def placeInICache (ea ra w : Word) (s : State) : State :=
  match s.iHit ea ra with
  | some y =>
    let c := s.iClass (classIndex ea)
    let l := c.line y
    s.setIClass (classIndex ea) (c.setLine y { l with data := setLineWord l.data (lineOffset ea) w })
  | none => s

/-- An instruction word placed at physical address `ra`, fetched at `ea`, in storage of byte order `e`, in the instruction-side
on-chip memory if it is there. -/
def placeAt (ea ra w : Word) (e ocm : Bool) (s : State) : State :=
  let v := endianWord e w
  let a := wordAlign ra
  placeInICache ea ra w
    (placeInDCache ra v
      { s with
        mem := if ocm then s.mem else s.mem.writeBytes a (bytesOf 4 v)
        instrOcm := if ocm then s.instrOcm.writeBytes a (bytesOf 4 v) else s.instrOcm
        oldMem := s.oldMem.filter (fun p => p.1 != wordOf a)
        oldCode := s.oldCode.filter (fun p => p.1 != wordOf a)
        oldLines := s.oldLines.filter (fun l => l.block != blockOf a) })

/-- An instruction word placed where the instruction at the pc is fetched. -/
def placeWord (w : Word) (s : State) : State :=
  match fetchCheck s.pc s with
  | .ok x _ => placeAt s.pc x.ra w x.attr.e x.ocm s
  | .exc _ _ => placeAt s.pc s.pc w false false s
  | .fault _ => placeAt s.pc s.pc w false false s

end Sys2Proof.Machine
end

