-- ==== Sys2Proof/Machine/Operands.lean ====
section
/-! DEFINITION. Machine/Operands.lean: the operand forms: effective addresses, immediates, branch targets, rotation and masks,
halfwords. -/

namespace Sys2Proof.Machine

/-! ### Immediates -/

/-- `sext_32(SIMM)`. -/
def simm32 (v : BitVec 16) : Word := v.signExtend 32

/-- `0x0000 ‖ UIMM`. -/
def uimm32 (v : BitVec 16) : Word := v.setWidth 32

/-- `SIMM ‖ 0x0000`, `UIMM ‖ 0x0000`. -/
def imm32Shifted (v : BitVec 16) : Word := v ++ 0#16

/-! ### Effective addresses (41_load_store.md R421), sums modulo 2^32 (20_memory.md R141) -/

/-- `(rA|0) + sext_32(d)`. -/
def State.eaD (s : State) (rA : Reg) (d : BitVec 16) : Word := s.baseReg rA + d.signExtend 32

/-- `(rA|0) + GPR[rB]`. -/
def State.eaX (s : State) (rA rB : Reg) : Word := s.baseReg rA + s.reg rB

/-- `(rA|0)`, of `lswi` and `stswi`. -/
def State.eaR (s : State) (rA : Reg) : Word := s.baseReg rA

/-! ### Branches (40_branch_cr_system.md R384, R385) -/

/-- The target of a branch with displacement `disp`: absolute or relative. -/
def branchTarget (aa : Bool) (disp cia : Word) : Word := if aa then disp else cia + disp

/-- `sext_32(LI ‖ 0b00)`. -/
def liDisp (li : BitVec 24) : Word := (li ++ 0#2).signExtend 32

/-- `sext_32(BD ‖ 0b00)`. -/
def bdDisp (bd : BitVec 14) : Word := (bd ++ 0#2).signExtend 32

/-! ### Rotation and masks (43_logical_compare_rotate_shift.md R585) -/

/-- `ROTL(x, n)`. -/
def rotl (x : Word) (n : BitVec 5) : Word := x.rotateLeft n.toNat

/-- `MASK(MB, ME)`: ones from bit MB to bit ME, wrapping if MB > ME. -/
def mask (mb me : BitVec 5) : Word :=
  let from_ : Word := (0xFFFFFFFF#32) >>> mb.toNat
  let upto : Word := (0xFFFFFFFF#32) <<< (31 - me.toNat)
  if mb ≤ me then from_ &&& upto else from_ ||| upto

/-! ### Halfwords (44_mac.md R611) -/

/-- Bits 0:15. -/
def upperHalf (w : Word) : BitVec 16 := w.extractLsb' 16 16

/-- Bits 16:31. -/
def lowerHalf (w : Word) : BitVec 16 := w.extractLsb' 0 16

/-- The exact product of two halfwords as two's-complement numbers. -/
def signedProduct (a b : BitVec 16) : Word := a.signExtend 32 * b.signExtend 32

/-- The exact product of two halfwords as unsigned numbers. -/
def unsignedProduct (a b : BitVec 16) : Word := a.setWidth 32 * b.setWidth 32

end Sys2Proof.Machine
end

