-- ==== Sys2Proof/Machine/Flags.lean ====
section
/-! DEFINITION. Machine/Flags.lean: condition-register fields, the record of a result, XER[CA], XER[OV] and XER[SO], and the
sums and products that compute them. -/

namespace Sys2Proof.Machine

/-! ### Condition-register fields (10_state.md R45 to R47) -/

/-- `CR[4×n : 4×n+3]`. -/
def crFieldOf (cr : Word) (n : BitVec 3) : BitVec 4 := bits cr (4 * n.toNat) 4

/-- A condition register with field `n` replaced. -/
def withCrField (cr : Word) (n : BitVec 3) (v : BitVec 4) : Word :=
  (cr &&& ~~~((0xF#32) <<< (28 - 4 * n.toNat))) ||| (v.setWidth 32 <<< (28 - 4 * n.toNat))

/-- The state with CR field `n` replaced. -/
def State.setCrField (s : State) (n : BitVec 3) (v : BitVec 4) : State := { s with cr := withCrField s.cr n v }

/-- Four bits, LT first. -/
def crBits (lt gt eq so : Bool) : BitVec 4 :=
  BitVec.ofBool lt ++ BitVec.ofBool gt ++ BitVec.ofBool eq ++ BitVec.ofBool so

/-- `record(res)` given XER[SO]: the signed comparison of a result with zero (R46). -/
def recordBits (res : Word) (so : Bool) : BitVec 4 := crBits (res.slt 0#32) ((0#32).slt res) (res == 0#32) so

/-- CR0 <- record(res). -/
def State.record (s : State) (res : Word) : State := s.setCrField 0#3 (recordBits res s.so)

/-- The record if Rc = 1. -/
def State.recordIf (s : State) (rc : Bool) (res : Word) : State := if rc then s.record res else s

/-- CR0[LT, GT, EQ] free and CR0[SO] <- XER[SO], after an invalid division (42_integer_arith.md R525). -/
def State.recordFreeIf (s : State) (rc : Bool) : State :=
  if rc then
    let r := drawCr s
    r.2.setCrField 0#3 (r.1 ++ BitVec.ofBool s.so)
  else s

/-- The field of a compare (R47). -/
def compareBits (lt gt eq so : Bool) : BitVec 4 := crBits lt gt eq so

/-- The field of a signed compare of `a` with `b`. -/
def signedCompare (a b : Word) (so : Bool) : BitVec 4 := compareBits (a.slt b) (b.slt a) (a == b) so

/-- The field of an unsigned compare of `a` with `b`. -/
def unsignedCompare (a b : Word) (so : Bool) : BitVec 4 := compareBits (a.ult b) (b.ult a) (a == b) so

/-! ### XER (10_state.md R48, R49) -/

/-- XER with `OV <- v`: OV written, SO set if `v`. -/
def withOv (xer : Word) (v : Bool) : Word := setBit (setBit xer 1 v) 0 (bit xer 0 || v)

/-- XER[CA] <- v. -/
def State.setCa (s : State) (v : Bool) : State := { s with xer := setBit s.xer 2 v }

/-- `if OE = 1 then OV <- v`. -/
def State.ovIf (s : State) (oe v : Bool) : State := if oe then { s with xer := withOv s.xer v } else s

/-! ### Sums (42_integer_arith.md R502, R503) -/

/-- A sum with its carry and overflow. -/
structure Sum where
  res : Word
  ca : Bool
  ov : Bool
  deriving DecidableEq, Repr

/-- The 33-bit sum of three addends. -/
def sum33 (a b : Word) (c : Bool) : BitVec 33 := a.setWidth 33 + b.setWidth 33 + (ofBit c).setWidth 33

/-- `ADD3(a, b, c)`. -/
def add3 (a b : Word) (c : Bool) : Sum :=
  let t := sum33 a b c
  { res := t.setWidth 32, ca := t.getLsbD 32, ov := bit a 0 == bit b 0 && bit (t.setWidth 32) 0 != bit a 0 }

/-! ### Products (42_integer_arith.md R521 to R524) -/

/-- The exact 64-bit signed product. -/
def product64 (a b : Word) : BitVec 64 := a.signExtend 64 * b.signExtend 64

/-- The exact 64-bit unsigned product. -/
def uproduct64 (a b : Word) : BitVec 64 := a.setWidth 64 * b.setWidth 64

/-- The product is not representable in 32 signed bits. -/
def productOverflows (a b : Word) : Bool := product64 a b != ((product64 a b).setWidth 32).signExtend 64

/-! ### Shifts (43_logical_compare_rotate_shift.md R590 to R593) -/

/-- The mask of `slw`: none if the count is 32 or more. -/
def leftMask (n : BitVec 6) : Word := if n.getLsbD 5 then 0#32 else mask 0#5 (31#5 - n.setWidth 5)

/-- The mask of `srw` and `sraw`. -/
def rightMask (n : BitVec 6) : Word := if n.getLsbD 5 then 0#32 else mask (n.setWidth 5) 31#5

/-- `ROTL(x, 32 − n)`. -/
def rotr (x : Word) (n : BitVec 5) : Word := rotl x (0#5 - n)

/-- The result of an algebraic shift right: the sign fills what the mask leaves out. -/
def algebraicShift (x : Word) (n : BitVec 6) : Word :=
  (rotr x (n.setWidth 5) &&& rightMask n) ||| ((if bit x 0 then 0xFFFFFFFF#32 else 0#32) &&& ~~~rightMask n)

/-- XER[CA] of an algebraic shift right: a negative number that loses a 1 bit. -/
def algebraicCarry (x : Word) (n : BitVec 6) : Bool :=
  bit x 0 && (rotr x (n.setWidth 5) &&& ~~~rightMask n) != 0#32

/-- The number of leading zeros of a word. -/
def leadingZeros (w : Word) : Nat := (List.range 32).findIdx (fun i => bit w i)

/-! ### Multiply-accumulate (44_mac.md R612) -/

/-- An accumulated result with its overflow. -/
structure Acc where
  res : Word
  ovf : Bool
  deriving DecidableEq, Repr

/-- Signed accumulation, modulo. -/
def accSigned (p d : Word) : Acc :=
  let t : BitVec 33 := p.signExtend 33 + d.signExtend 33
  { res := t.setWidth 32, ovf := bit p 0 == bit d 0 && bit d 0 != bit (t.setWidth 32) 0 }

/-- Signed accumulation, saturating. -/
def accSignedSat (p d : Word) : Acc :=
  let r := accSigned p d
  { r with res := if r.ovf then (if bit d 0 then 0x80000000#32 else 0x7FFFFFFF#32) else r.res }

/-- Unsigned accumulation, modulo. -/
def accUnsigned (p d : Word) : Acc :=
  let t : BitVec 33 := p.setWidth 33 + d.setWidth 33
  { res := t.setWidth 32, ovf := t.getLsbD 32 }

/-- Unsigned accumulation, saturating. -/
def accUnsignedSat (p d : Word) : Acc :=
  let r := accUnsigned p d
  { r with res := if r.ovf then 0xFFFFFFFF#32 else r.res }

/-- `GPR[rD] <- res` with the flags of a multiply-accumulate instruction (R613). -/
def State.accumulate (s : State) (rD : Reg) (r : Acc) (oe rc : Bool) : State :=
  ((s.setReg rD r.res).ovIf oe r.ovf).recordIf rc r.res

/-! ### Traps (40_branch_cr_system.md R398) -/

/-- Whether the condition of a trap instruction is met. -/
def trapCondition (trapOn : BitVec 5) (a b : Word) : Bool :=
  (a.slt b && trapOn.getLsbD 4) || (b.slt a && trapOn.getLsbD 3) || (a == b && trapOn.getLsbD 2) ||
    (a.ult b && trapOn.getLsbD 1) || (b.ult a && trapOn.getLsbD 0)

/-! ### Branch conditions (40_branch_cr_system.md R381) -/

/-- CTR after the decrement that BO[2] = 0 asks for. -/
def State.ctrAfter (s : State) (bo : BitVec 5) : Word := if bo.getLsbD 2 then s.ctr else s.ctr - 1#32

/-- `taken`, with CTR after its decrement. -/
def State.branchTakes (s : State) (bo bi : BitVec 5) : Bool :=
  (bo.getLsbD 2 || (s.ctrAfter bo != 0#32) ^^ bo.getLsbD 1) && (bo.getLsbD 4 || s.crBit bi == bo.getLsbD 3)

end Sys2Proof.Machine
end

