-- ==== Sys2Proof/Machine/Arith.lean ====
section
/-! DEFINITION. Machine/Arith.lean: integer arithmetic (42_integer_arith.md R505 to R526). -/

namespace Sys2Proof.Machine

/-- GPR[rD] <- res, with OV if OE = 1 and CR0 if Rc = 1 (R501, R502). -/
def State.writeSum (s : State) (rD : Reg) (r : Sum) (oe rc : Bool) : State :=
  ((s.setReg rD r.res).ovIf oe r.ov).recordIf rc r.res

/-- The same with XER[CA] <- ca. -/
def State.writeSumCa (s : State) (rD : Reg) (r : Sum) (oe rc : Bool) : State :=
  (((s.setReg rD r.res).setCa r.ca).ovIf oe r.ov).recordIf rc r.res

/-- `add` (R505). -/
def execAdd (rD rA rB : Reg) (oe rc : Bool) (s : State) : Out :=
  done (s.writeSum rD (add3 (s.reg rA) (s.reg rB) false) oe rc)

/-- `addc` (R506). -/
def execAddc (rD rA rB : Reg) (oe rc : Bool) (s : State) : Out :=
  done (s.writeSumCa rD (add3 (s.reg rA) (s.reg rB) false) oe rc)

/-- `adde` (R507). -/
def execAdde (rD rA rB : Reg) (oe rc : Bool) (s : State) : Out :=
  done (s.writeSumCa rD (add3 (s.reg rA) (s.reg rB) s.ca) oe rc)

/-- `addi` (R508). -/
def execAddi (rD rA : Reg) (simm : BitVec 16) (s : State) : Out :=
  done (s.setReg rD (s.baseReg rA + simm32 simm))

/-- `addic` (R509). -/
def execAddic (rD rA : Reg) (simm : BitVec 16) (s : State) : Out :=
  done (s.writeSumCa rD (add3 (s.reg rA) (simm32 simm) false) false false)

/-- `addic.` (R510). -/
def execAddicDot (rD rA : Reg) (simm : BitVec 16) (s : State) : Out :=
  done (s.writeSumCa rD (add3 (s.reg rA) (simm32 simm) false) false true)

/-- `addis` (R511). -/
def execAddis (rD rA : Reg) (simm : BitVec 16) (s : State) : Out :=
  done (s.setReg rD (s.baseReg rA + imm32Shifted simm))

/-- `addme` (R512). -/
def execAddme (rD rA : Reg) (oe rc : Bool) (s : State) : Out :=
  done (s.writeSumCa rD (add3 (s.reg rA) 0xFFFFFFFF#32 s.ca) oe rc)

/-- `addze` (R513). -/
def execAddze (rD rA : Reg) (oe rc : Bool) (s : State) : Out :=
  done (s.writeSumCa rD (add3 (s.reg rA) 0#32 s.ca) oe rc)

/-- `subf` (R514). -/
def execSubf (rD rA rB : Reg) (oe rc : Bool) (s : State) : Out :=
  done (s.writeSum rD (add3 (~~~s.reg rA) (s.reg rB) true) oe rc)

/-- `subfc` (R515). -/
def execSubfc (rD rA rB : Reg) (oe rc : Bool) (s : State) : Out :=
  done (s.writeSumCa rD (add3 (~~~s.reg rA) (s.reg rB) true) oe rc)

/-- `subfe` (R516). -/
def execSubfe (rD rA rB : Reg) (oe rc : Bool) (s : State) : Out :=
  done (s.writeSumCa rD (add3 (~~~s.reg rA) (s.reg rB) s.ca) oe rc)

/-- `subfic` (R517). -/
def execSubfic (rD rA : Reg) (simm : BitVec 16) (s : State) : Out :=
  done (s.writeSumCa rD (add3 (~~~s.reg rA) (simm32 simm) true) false false)

/-- `subfme` (R518). -/
def execSubfme (rD rA : Reg) (oe rc : Bool) (s : State) : Out :=
  done (s.writeSumCa rD (add3 (~~~s.reg rA) 0xFFFFFFFF#32 s.ca) oe rc)

/-- `subfze` (R519). -/
def execSubfze (rD rA : Reg) (oe rc : Bool) (s : State) : Out :=
  done (s.writeSumCa rD (add3 (~~~s.reg rA) 0#32 s.ca) oe rc)

/-- `neg` (R520). -/
def execNeg (rD rA : Reg) (oe rc : Bool) (s : State) : Out :=
  done (s.writeSum rD (add3 (~~~s.reg rA) 0#32 true) oe rc)

/-- `mulhw` (R521). -/
def execMulhw (rD rA rB : Reg) (rc : Bool) (s : State) : Out :=
  let res : Word := (product64 (s.reg rA) (s.reg rB)).extractLsb' 32 32
  done ((s.setReg rD res).recordIf rc res)

/-- `mulhwu` (R522). -/
def execMulhwu (rD rA rB : Reg) (rc : Bool) (s : State) : Out :=
  let res : Word := (uproduct64 (s.reg rA) (s.reg rB)).extractLsb' 32 32
  done ((s.setReg rD res).recordIf rc res)

/-- `mulli` (R523): the low 32 bits of the 48-bit product. -/
def execMulli (rD rA : Reg) (simm : BitVec 16) (s : State) : Out :=
  done (s.setReg rD (s.reg rA * simm32 simm))

/-- `mullw` (R524). -/
def execMullw (rD rA rB : Reg) (oe rc : Bool) (s : State) : Out :=
  let res : Word := (product64 (s.reg rA) (s.reg rB)).setWidth 32
  done (((s.setReg rD res).ovIf oe (productOverflows (s.reg rA) (s.reg rB))).recordIf rc res)

/-- The two invalid signed divisions (R525). -/
def invalidDivision (a b : Word) : Bool := b == 0#32 || (a == 0x80000000#32 && b == 0xFFFFFFFF#32)

/-- An invalid division: rD and CR0[LT, GT, EQ] are free, OV is set if OE = 1 (R525, R526, U1). -/
def State.divideFree (s : State) (rD : Reg) (oe rc : Bool) : State :=
  let r := drawWord s
  ((r.2.setReg rD r.1).ovIf oe true).recordFreeIf rc

/-- A valid division. -/
def State.writeQuotient (s : State) (rD : Reg) (q : Word) (oe rc : Bool) : State :=
  ((s.setReg rD q).ovIf oe false).recordIf rc q

/-- `divw` (R525): truncated toward zero. -/
def execDivw (rD rA rB : Reg) (oe rc : Bool) (s : State) : Out :=
  if invalidDivision (s.reg rA) (s.reg rB) then done (s.divideFree rD oe rc)
  else done (s.writeQuotient rD ((s.reg rA).sdiv (s.reg rB)) oe rc)

/-- `divwu` (R526). -/
def execDivwu (rD rA rB : Reg) (oe rc : Bool) (s : State) : Out :=
  if s.reg rB = 0#32 then done (s.divideFree rD oe rc)
  else done (s.writeQuotient rD (s.reg rA / s.reg rB) oe rc)

end Sys2Proof.Machine
end

