-- ==== Sys2Proof/Machine/Branch.lean ====
section
/-! DEFINITION. Machine/Branch.lean: the four branches (40_branch_cr_system.md R384 to R387). A taken branch first meets its
debug event (61_timers_debug.md R877). -/

namespace Sys2Proof.Machine

/-- LR after a branch at `cia`: the address of the next instruction if LK = 1, whether or not the branch is taken (R380). -/
def linkReg (lk : Bool) (cia lr : Word) : Word := if lk then cia + 4#32 else lr

/-- A conditional branch whose target is a function of the state before it. -/
def condBranch (bo bi : BitVec 5) (lk : Bool) (target : State → Word) (s : State) : Out :=
  if s.branchTakes bo bi then
    (branchTaken s).andThen fun _ t =>
      .next { t with pc := target t, ctr := t.ctrAfter bo, lr := linkReg lk t.pc t.lr }
  else .next { s with pc := s.pc + 4#32, ctr := s.ctrAfter bo, lr := linkReg lk s.pc s.lr }

/-- `b` (R384). -/
def execB (li : BitVec 24) (aa lk : Bool) (s : State) : Out :=
  (branchTaken s).andThen fun _ t =>
    .next { t with pc := branchTarget aa (liDisp li) t.pc, lr := linkReg lk t.pc t.lr }

/-- `bc` (R385). -/
def execBc (bo bi : BitVec 5) (bd : BitVec 14) (aa lk : Bool) (s : State) : Out :=
  condBranch bo bi lk (fun t => branchTarget aa (bdDisp bd) t.pc) s

/-- `bclr` (R386): to the LR from before the instruction. -/
def execBclr (bo bi : BitVec 5) (lk : Bool) (s : State) : Out :=
  condBranch bo bi lk (fun t => wordAlign t.lr) s

/-- `bcctr` (R387): to the CTR after any decrement. -/
def execBcctr (bo bi : BitVec 5) (lk : Bool) (s : State) : Out :=
  condBranch bo bi lk (fun t => wordAlign (t.ctrAfter bo)) s

end Sys2Proof.Machine
end

