-- ==== Sys2Proof/Machine/CacheOps.lean ====
section
/-! DEFINITION. Machine/CacheOps.lean: the cache instructions (46_cache_tlb.md R700 to R713). -/

namespace Sys2Proof.Machine

/-- Translation and protection of a cache instruction's address, as a load or a store; an exception is taken (R700(d), (e)). -/
def cacheAccess (k : AccKind) (ea : Word) (s : State) : Res Xlat :=
  match dataCheck k ea { s with synced := false } with
  | .ok x t => .ok x t
  | .exc e t => raise e t
  | .fault f => .fault f

/-- The same, then the debug compare, as a write or a read (R700(f)). -/
def cacheAccessDac (k : AccKind) (write : Bool) (ea : Word) (s : State) : Res Xlat :=
  (cacheAccess k ea s).bind fun x t => (dacCheck write [ea] t).bind fun _ u => .ok x u

/-- The end of a cache instruction that began in `s` and leaves `t`: the next instruction, or, where the data bus answered it with
an error, freely a data machine check at this instruction (60_exceptions.md R766: "at or after" it). -/
def finish (s t : State) : Out :=
  if t.dataMC && t.me && !s.dataMC then
    let r := drawBool t
    if r.1 then trapTo .machineCheckData { r.2 with dataMC := false, mcDue := false } else done r.2
  else done t

/-- A hint: translation and protection, where an exception makes the instruction a no-operation, then the debug compare and
the body (R701, R705, R706, R711). -/
def hint (k : AccKind) (write : Bool) (ea : Word) (body : Xlat → State → Res Unit) (s : State) : Out :=
  match dataCheck k ea s with
  | .exc _ t => done t
  | .fault f => .fault f
  | .ok x t => (dacCheck write [ea] t).andThen fun _ u => (body x u).andThen fun _ v => finish u v

/-- Translation of an instruction that can only miss the TLB: a storage exception does not occur (R709, R713). -/
def tlbMissOnly (ea : Word) (s : State) : Res Unit :=
  match dataCheck .load ea s with
  | .ok _ t => .ok () t
  | .exc (.dataTlbMiss st a) t => raise (.dataTlbMiss st a) t
  | .exc _ t => .ok () t
  | .fault f => .fault f

/-- The line of the data cache that hits, changed. -/
def State.updateDLine (s : State) (ra : Word) (w : Way) (f : DLine → DLine) : State :=
  let c := s.dClass (classIndex ra)
  s.setDClass (classIndex ra) (c.setLine w (f (c.line w)))

/-! ### Data cache -/

/-- What `dcba` does to cacheable write-back storage: the 32 bytes are free, and so is the dirty bit, which the spec does not
state (R701, U3). -/
def allocateBody (ra : Word) (s0 : State) : Res Unit :=
  let s := dropFillBuffer ra s0
  let l := drawLine s
  let d := drawBool l.2
  match d.2.dHit ra with
  | some w => .ok () (d.2.updateDLine ra w (fun x => { x with data := l.1, dirty := d.1 }))
  | none => dAllocate ra l.1 d.1 d.2

/-- `dcba` (R701). -/
def execDcba (rA rB : Reg) (s : State) : Out :=
  hint .store true (s.eaX rA rB)
    (fun x t => if x.attr.i || x.attr.w then .ok () { t with synced := false } else allocateBody x.ra { t with synced := false }) s

/-- `dcbf` (R702). -/
def execDcbf (rA rB : Reg) (s : State) : Out :=
  (cacheAccessDac .load true (s.eaX rA rB) s).andThen fun x t =>
    match t.dHit x.ra with
    | some w => (writeBack (classIndex x.ra) w t).andThen fun _ u => finish t (dInvalidate (classIndex x.ra) w u)
    | none => done t

/-- `dcbi` (R703). -/
def execDcbi (rA rB : Reg) (s : State) : Out :=
  privileged s
    ((cacheAccessDac .store true (s.eaX rA rB) s).andThen fun x t =>
      let u := dropFillBuffer x.ra t
      match u.dHit x.ra with
      | some w => done (dInvalidate (classIndex x.ra) w u)
      | none => done u)

/-- `dcbst` (R704). -/
def execDcbst (rA rB : Reg) (s : State) : Out :=
  (cacheAccessDac .load true (s.eaX rA rB) s).andThen fun x t =>
    match t.dHit x.ra with
    | some w =>
      (writeBack (classIndex x.ra) w t).andThen fun _ u =>
        finish t (u.updateDLine x.ra w (fun l => { l with dirty := false }))
    | none => done t

/-- A touch: a line fill if the storage is cacheable and the line is not in the cache. With CCR0[LWOA] = 1 it is free whether
the line is filled (91_not_in_source.md N46.4). Whether CCR0[SWOA] = 1 suppresses the fill of `dcbtst` or `dcbt` is not stated either:
here it has no effect on touches, which R706 counts as loads (DESIGN CHOICE, unsafe, log entry 24). -/
def touchBody (x : Xlat) (s : State) : Res Unit :=
  if x.attr.i || (s.dHit x.ra).isSome then .ok () s
  else if s.lwoa then
    let r := drawBool s
    if r.1 then dFill x.ra r.2 else .ok () r.2
  else dFill x.ra s

/-- `dcbt` (R705). -/
def execDcbt (rA rB : Reg) (s : State) : Out :=
  hint .load false (s.eaX rA rB) (fun x t => touchBody x { t with synced := false }) s

/-- `dcbtst` (R706): as `dcbt`. -/
def execDcbtst (rA rB : Reg) (s : State) : Out :=
  hint .load false (s.eaX rA rB) (fun x t => touchBody x { t with synced := false }) s

/-- The line zeroed and dirty, allocated if it is not in the cache (R707). -/
def zeroBody (ra : Word) (s0 : State) : Res Unit :=
  let s := dropFillBuffer ra s0
  match s.dHit ra with
  | some w =>
    let t := s.updateDLine ra w (fun x => { x with data := 0#256, dirty := true })
    .ok () (t.setDClass (classIndex ra) ((t.dClass (classIndex ra)).touch w))
  | none => dAllocate ra 0#256 true s

/-- `dcbz` (R707): an alignment exception for storage that is caching-inhibited or write-through. Which addresses of the 32-byte line
the debug compare takes is not stated (91_not_in_source.md N61.2): here the effective address alone, as for the other cache
instructions (DESIGN CHOICE, unsafe, log entry 20). -/
def execDcbz (rA rB : Reg) (s : State) : Out :=
  let ea := s.eaX rA rB
  (cacheAccess .store ea s).andThen fun x t =>
    if x.attr.i || x.attr.w then trapTo (.alignment ea) t
    else (dacCheck true [ea] t).andThen fun _ u => (zeroBody x.ra u).andThen fun _ v => finish u v

/-- The fill buffer emptied if its block is of congruence class `i` (20_memory.md R166). -/
def dropFillClass (i : BitVec 8) (s : State) : State :=
  match s.dfb with
  | none => s
  | some f => if f.block % 256 = i.toNat then { s with dfb := none } else s

/-- Both lines of a class invalidated; the LRU bit is free (R708, U13). The class has been invalidated since reset. -/
def invalidateClass (i : BitVec 8) (s : State) : State :=
  let r := drawBool s
  let c := r.2.dClass i
  let u : State := { r.2 with dcacheReady := r.2.dcacheReady ||| 1#256 <<< i.toNat }
  u.setDClass i { wayA := { c.wayA with valid := false, dirty := false }
                  wayB := { c.wayB with valid := false, dirty := false }
                  lru := r.1 }

/-- `dccci` (R708): the class of EA[19:26]. -/
def execDccci (rA rB : Reg) (s : State) : Out :=
  privileged s
    ((cacheAccess .store (s.eaX rA rB) s).andThen fun _ t =>
      let i := classIndex (s.eaX rA rB)
      done (invalidateClass i (dropFillClass i t)))

/-- CCR0[CIS] and CCR0[CWS], which need no synchronization (70_reset_and_hazards.md R950). -/
def State.cis (s : State) : Bool := bit s.spr.ccr0 27
/-- CCR0[CWS]. -/
def State.selectedWay (s : State) : Way := if bit s.spr.ccr0 31 then .b else .a

/-- The tag format of `dcread`; reserved bits are those of `free` (R709, U5). -/
def dcacheTagWord (c : DClass) (w : Way) (free : Word) : Word :=
  (c.line w).tag ++ free.extractLsb' 6 7 ++ BitVec.ofBool (c.line w).dirty ++ BitVec.ofBool (c.line w).valid ++
    free.extractLsb' 1 3 ++ BitVec.ofBool c.lru

/-- What `dcread` reads. -/
def dcacheInfo (ea : Word) (s : State) : Word × State :=
  let c := s.dClass (classIndex ea)
  if s.cis then
    let r := drawWord s
    (dcacheTagWord c s.selectedWay r.1, r.2)
  else (lineWord (c.line s.selectedWay).data (lineOffset ea / 4), s)

/-- `dcread` (R709). -/
def execDcread (rD rA rB : Reg) (s : State) : Out :=
  let ea := s.eaX rA rB
  privileged s
    ((tlbMissOnly ea s).andThen fun _ t =>
      if ea.extractLsb' 0 2 = 0#2 then
        let r := dcacheInfo ea t
        done (r.2.setReg rD r.1)
      else trapTo (.alignment ea) t)

/-! ### Instruction cache -/

/-- `icbi` (R710). -/
def execIcbi (rA rB : Reg) (s : State) : Out :=
  let ea := s.eaX rA rB
  (cacheAccessDac .load false ea s).andThen fun x t =>
    match t.iHit ea x.ra with
    | some w => done (iInvalidate (classIndex ea) w t)
    | none => done t

/-- Whether `icbt` finds its address cacheable: the instruction-side attribute (R700(g)); on-chip memory is not. -/
def State.icbtCacheable (s : State) (ea : Word) (x : Xlat) : Bool :=
  !x.ocm && !ocmHolds s.env.instrOcm ea && (if s.dr then !x.attr.i else regionBit (s.inForce .iccr) ea)

/-- The line fill of `icbt`. Between a change of CCR0[IPP, FWOA] and the next context synchronization it may not use the bus
(70_reset_and_hazards.md R950). -/
def icbtFill (ea : Word) (x : Xlat) (s : State) : Res Unit :=
  if s.ccr0Open then .fault .ccr0OutsideSequence else .ok () (iFill ea x.ra x.attr.e { s with busFetch := true })

/-- What `icbt` does: a line fill if the storage is cacheable, the line is not in the cache and the bus answers. With CCR0[FWOA] = 1 it
is free whether the line is filled (91_not_in_source.md N46.4). -/
def icbtBody (ea : Word) (x : Xlat) (s : State) : Res Unit :=
  if !s.icbtCacheable ea x || (s.iHit ea x.ra).isSome || s.lineError x.ra then .ok () s
  else if s.fwoa then
    let r := drawBool s
    if r.1 then icbtFill ea x r.2 else .ok () r.2
  else icbtFill ea x s

/-- `icbt` (R711). -/
def execIcbt (rA rB : Reg) (s : State) : Out :=
  let ea := s.eaX rA rB
  hint .load false ea (icbtBody ea) s

/-- What is left of the valid lines of an instruction cache when all leave it. -/
def linesLeft (v : Vector IClass 256) : List OldLine :=
  (v.toList.mapIdx fun i c => c.wayA.left (BitVec.ofNat 8 i) ++ c.wayB.left (BitVec.ofNat 8 i)).flatten

/-- Every line of the instruction cache invalidated; the LRU bits are free (R712, U13). Their words may still be in the fetch queue.
The cache has been invalidated since reset. -/
def invalidateICache (s : State) : State :=
  { s with
    oldLines := s.oldLines ++ linesLeft s.icache
    icacheReady := true
    icache := mapIdxVec (fun i c =>
      { wayA := { c.wayA with valid := false }
        wayB := { c.wayB with valid := false }
        lru := Config.freeBool (s.draws + i) }) s.icache
    draws := s.draws + 256 }

/-- `iccci` (R712): the operands are not used. -/
def execIccci (_ _ : Reg) (s : State) : Out := privileged s (done (invalidateICache s))

/-- The tag format of `icread`; reserved bits are those of `free` (R713, U5). -/
def icacheTagWord (c : IClass) (w : Way) (free : Word) : Word :=
  (c.line w).tag ++ free.extractLsb' 5 5 ++ BitVec.ofBool (c.line w).valid ++ free.extractLsb' 1 3 ++ BitVec.ofBool c.lru

/-- What `icread` reads. -/
def icacheInfo (ea : Word) (s : State) : Word × State :=
  let c := s.iClass (classIndex ea)
  if s.cis then
    let r := drawWord s
    (icacheTagWord c s.selectedWay r.1, r.2)
  else (lineWord (c.line s.selectedWay).data (lineOffset ea / 4), s)

/-- `icread` (R713): ICDBDR is certain to hold the result after a context synchronization (70_reset_and_hazards.md R951). -/
def execIcread (rA rB : Reg) (s : State) : Out :=
  let ea := s.eaX rA rB
  privileged s
    ((tlbMissOnly ea s).andThen fun _ t =>
      let r := icacheInfo ea t
      done (r.2.writeCtx .icdbdr r.1))

end Sys2Proof.Machine
end

