-- ==== Sys2Proof/Machine/Control.lean ====
section
/-! DEFINITION. Machine/Control.lean: moves to and from special registers, MSR, DCRs and CR, and the synchronizing instructions
(45_processor_control_sync.md R661 to R678). -/

namespace Sys2Proof.Machine

/-- What `mfspr` reads (10_state.md R135); none where the number is unsupported or write-only. Reserved bits read as last
written (92_eei_decisions.md D8, log entry 6). -/
def readSpr (n : Nat) (s : State) : Option Word :=
  match n with
  | 1 => some s.xer
  | 8 => some s.lr
  | 9 => some s.ctr
  | 26 => some s.spr.srr0
  | 27 => some s.spr.srr1
  | 256 => some s.spr.usprg0
  | 260 => some s.spr.sprg4
  | 261 => some s.spr.sprg5
  | 262 => some s.spr.sprg6
  | 263 => some s.spr.sprg7
  | 272 => some s.spr.sprg0
  | 273 => some s.spr.sprg1
  | 274 => some s.spr.sprg2
  | 275 => some s.spr.sprg3
  | 276 => some s.spr.sprg4
  | 277 => some s.spr.sprg5
  | 278 => some s.spr.sprg6
  | 279 => some s.spr.sprg7
  | 287 => some s.spr.pvr
  | 572 => if s.virtex4 then some s.spr.mcsr else none
  | 888 => if s.virtex4 then some s.spr.ccr1 else none
  | 944 => some s.spr.zpr
  | 945 => some s.spr.pid
  | 947 => some s.spr.ccr0
  | 948 => some s.dbg.iac3
  | 949 => some s.dbg.iac4
  | 950 => some s.dbg.dvc1
  | 951 => some s.dbg.dvc2
  | 953 => some s.spr.sgr
  | 954 => some s.spr.dcwr
  | 955 => some s.spr.sler
  | 956 => some s.spr.su0r
  | 957 => some s.dbg.dbcr1
  | 979 => some (s.inForce .icdbdr)
  | 980 => some s.spr.esr
  | 981 => some s.spr.dear
  | 982 => some s.spr.evpr
  | 984 => some s.tmr.tsr
  | 986 => some s.tmr.tcr
  | 987 => some s.tmr.pit
  | 990 => some s.spr.srr2
  | 991 => some s.spr.srr3
  | 1008 => some s.dbg.dbsr
  | 1010 => some s.dbg.dbcr0
  | 1012 => some s.dbg.iac1
  | 1013 => some s.dbg.iac2
  | 1014 => some s.dbg.dac1
  | 1015 => some s.dbg.dac2
  | 1018 => some s.spr.dccr
  | 1019 => some s.spr.iccr
  | _ => none

/-- A write of DBSR: bits with a 1 are cleared; the timers run again once all bits but MRR are 0 (10_state.md R118,
61_timers_debug.md R878). -/
def writeDbsr (v : Word) (s : State) : State :=
  let d := s.dbg.dbsr &&& ~~~v
  { s with
    dbg := { s.dbg with dbsr := d }
    tmr := { s.tmr with frozen := s.tmr.frozen && d &&& 0xFFFFFCFF#32 != 0#32 } }

/-- A write of DBCR0: a reset request resets at once (61_timers_debug.md R884). -/
def writeDbcr0 (v : Word) (s : State) : State :=
  match resetKindOf (bits v 2 2) with
  | some k => resetProcessor k false s
  | none => s.writeCtx .dbcr0 v

/-- A write of CCR0. One that changes IPP or FWOA opens the part of Sequence 1 that its final context synchronization ends
(70_reset_and_hazards.md R950). -/
def writeCcr0 (v : Word) (s : State) : State :=
  let t := s.writeCtx .ccr0 v
  { t with ccr0Open := s.ccr0Open || (s.spr.ccr0 ^^^ v) &&& 0x00300100#32 != 0#32 }

/-- A write of TBL, which may be a time-out (92_eei_decisions.md D19). -/
def writeTbl (v : Word) (s : State) : State :=
  tblChanged s.tmr.tbl v { s with tmr := { s.tmr with tbl := v } }

/-- The state after `mtspr` writes number `n`, by the write rule of each register (10_state.md R135); none where the number is
unsupported or read-only. -/
def writeSpr (n : Nat) (v : Word) (s : State) : Option State :=
  match n with
  | 1 => some { s with xer := v }
  | 8 => some { s with lr := v }
  | 9 => some { s with ctr := v }
  | 26 => some { s with spr := { s.spr with srr0 := v } }
  | 27 => some { s with spr := { s.spr with srr1 := v } }
  | 256 => some { s with spr := { s.spr with usprg0 := v } }
  | 272 => some { s with spr := { s.spr with sprg0 := v } }
  | 273 => some { s with spr := { s.spr with sprg1 := v } }
  | 274 => some { s with spr := { s.spr with sprg2 := v } }
  | 275 => some { s with spr := { s.spr with sprg3 := v } }
  | 276 => some { s with spr := { s.spr with sprg4 := v } }
  | 277 => some { s with spr := { s.spr with sprg5 := v } }
  | 278 => some { s with spr := { s.spr with sprg6 := v } }
  | 279 => some { s with spr := { s.spr with sprg7 := v } }
  | 284 => some (writeTbl v s)
  | 285 => some { s with tmr := { s.tmr with tbu := v } }
  | 572 => if s.virtex4 then some { s with spr := { s.spr with mcsr := s.spr.mcsr &&& ~~~v } } else none
  | 888 => if s.virtex4 then some { s with spr := { s.spr with ccr1 := v } } else none
  | 944 => some (s.writeCtx .zpr v)
  | 945 => some (s.writeCtx .pid v)
  | 947 => some (writeCcr0 v s)
  | 948 => some (s.writeCtx .iac3 v)
  | 949 => some (s.writeCtx .iac4 v)
  | 950 => some (s.writeCtx .dvc1 v)
  | 951 => some (s.writeCtx .dvc2 v)
  | 953 => some (s.writeCtx .sgr v)
  | 954 => some (s.writeCtx .dcwr v)
  | 955 => some (s.writeCtx .sler v)
  | 956 => some (s.writeCtx .su0r v)
  | 957 => some (s.writeCtx .dbcr1 v)
  | 980 => some { s with spr := { s.spr with esr := v } }
  | 981 => some { s with spr := { s.spr with dear := v } }
  | 982 => some { s with spr := { s.spr with evpr := v } }
  | 984 => some { s with tmr := { s.tmr with tsr := s.tmr.tsr &&& ~~~v } }
  | 986 => some { s with tmr := { s.tmr with tcr := v ||| (s.tmr.tcr &&& 0x30000000#32) } }
  | 987 => some { s with tmr := { s.tmr with pit := v, pitReload := v } }
  | 990 => some { s with spr := { s.spr with srr2 := v } }
  | 991 => some { s with spr := { s.spr with srr3 := v } }
  | 1008 => some (writeDbsr v s)
  | 1010 => some (writeDbcr0 v s)
  | 1012 => some (s.writeCtx .iac1 v)
  | 1013 => some (s.writeCtx .iac2 v)
  | 1014 => some (s.writeCtx .dac1 v)
  | 1015 => some (s.writeCtx .dac2 v)
  | 1018 => some (s.writeCtx .dccr v)
  | 1019 => some (s.writeCtx .iccr v)
  | _ => none

/-- Whether a write of `v` to CCR0 changes a field outside the sequence it requires (R950). Sequence 1, required for IPP and FWOA: no
interrupt can intervene (MSR[CE] = MSR[EE] = 0), earlier storage accesses are complete (`sync`), and the code was fetched from the
instruction cache since the last context synchronization. Sequence 2, enough for DPP1 and U0XE: the first two. -/
def State.ccr0Unsafe (s : State) (v : Word) : Bool :=
  let change := s.spr.ccr0 ^^^ v
  let quiet := !s.ce && !s.ee && s.synced
  (change &&& 0x00300100#32 != 0#32 && !(quiet && !s.busFetch)) || (change &&& 0x00420000#32 != 0#32 && !quiet)

/-- The programming error that a write of a special-purpose register makes, if any: CCR0 outside its sequences (U33), or a region
made cacheable before the cache was invalidated after reset (U32). -/
def sprFault (n : Nat) (v : Word) (s : State) : Option Fault :=
  match n with
  | 947 => if s.ccr0Unsafe v then some .ccr0OutsideSequence else none
  | 1018 => if v &&& ~~~s.spr.dccr != 0#32 && !s.dcacheInvalidated then some .cacheNotInvalidated else none
  | 1019 => if v &&& ~~~s.spr.iccr != 0#32 && !s.icacheReady then some .cacheNotInvalidated else none
  | _ => none

/-- A special-purpose register is privileged by the 0x10 bit of its number (10_state.md R41). -/
def privilegedSpr (sprn : BitVec 10) : Bool := sprn.getLsbD 4

/-- `mfspr` (R661). -/
def execMfspr (rD : Reg) (sprn : BitVec 10) (s : State) : Out :=
  if privilegedSpr sprn && s.user then trapTo .programPrivileged s
  else
    match readSpr sprn.toNat s with
    | some v => done (s.setReg rD v)
    | none => .refused .unsupportedSpr

/-- `mtspr` (R662). -/
def execMtspr (sprn : BitVec 10) (rS : Reg) (s : State) : Out :=
  if privilegedSpr sprn && s.user then trapTo .programPrivileged s
  else
    match sprFault sprn.toNat (s.reg rS) s with
    | some f => .fault f
    | none =>
      match writeSpr sprn.toNat (s.reg rS) s.advance with
      | some t => .next t
      | none => .refused .unsupportedSpr

/-- `mftb` (R663). -/
def execMftb (rD : Reg) (tbrn : BitVec 10) (s : State) : Out :=
  if tbrn = 268#10 then done (s.setReg rD s.tmr.tbl)
  else if tbrn = 269#10 then done (s.setReg rD s.tmr.tbu)
  else .refused .unsupportedTbr

/-- `mfmsr` (R664). -/
def execMfmsr (rD : Reg) (s : State) : Out := privileged s (done (s.setReg rD s.msr))

/-- `mtmsr` (R665). Enabling translation needs an initialized UTLB (U37). -/
def execMtmsr (rS : Reg) (s : State) : Out :=
  privileged s
    (if s.translatesTooEarly (s.reg rS) then .fault .tlbNotInitialized else done (s.writeMsr (s.reg rS)))

/-- `wrtee` (R666). -/
def execWrtee (rS : Reg) (s : State) : Out := privileged s (done { s with msr := setBit s.msr 16 (bit (s.reg rS) 16) })

/-- `wrteei` (R667). -/
def execWrteei (e : Bool) (s : State) : Out := privileged s (done { s with msr := setBit s.msr 16 e })

/-- Whether a device stands behind a device control register (DCR_MODEL, D2). -/
def State.dcrDevice (s : State) (dcrn : BitVec 10) : Bool := s.env.dcrDevices.contains dcrn.toNat

/-- `mfdcr` (R668): what a device answers is free (log entry 14). -/
def execMfdcr (rD : Reg) (dcrn : BitVec 10) (s : State) : Out :=
  privileged s
    (if s.dcrDevice dcrn then
       let r := drawWord s
       done (r.2.setReg rD r.1)
     else done (s.setReg rD (s.dcr[dcrn.toNat]'(dcrn.isLt))))

/-- `mtdcr` (R669): a write to a device leaves no trace in State (log entry 14). -/
def execMtdcr (dcrn : BitVec 10) (rS : Reg) (s : State) : Out :=
  privileged s
    (if s.dcrDevice dcrn then done s
     else done { s with dcr := s.dcr.set dcrn.toNat (s.reg rS) dcrn.isLt })

/-- `mfcr` (R670). -/
def execMfcr (rD : Reg) (s : State) : Out := done (s.setReg rD s.cr)

/-- Four copies of bit `n` of CRM. -/
def crmNibble (crm : BitVec 8) (n : Nat) : BitVec 4 := if crm.getLsbD (7 - n) then 0xF#4 else 0#4

/-- The mask of `mtcrf` (R671). -/
def crmMask (crm : BitVec 8) : Word :=
  crmNibble crm 0 ++ crmNibble crm 1 ++ crmNibble crm 2 ++ crmNibble crm 3 ++
    (crmNibble crm 4 ++ crmNibble crm 5 ++ crmNibble crm 6 ++ crmNibble crm 7)

/-- `mtcrf` (R671). -/
def execMtcrf (crm : BitVec 8) (rS : Reg) (s : State) : Out :=
  done { s with cr := (s.reg rS &&& crmMask crm) ||| (s.cr &&& ~~~crmMask crm) }

/-- `mcrxr` (R672). -/
def execMcrxr (crfD : BitVec 3) (s : State) : Out :=
  done { s.setCrField crfD (bits s.xer 0 4) with xer := s.xer &&& 0x0FFFFFFF#32 }

/-- `eieio` (R676): as `sync`. -/
def execEieio (s : State) : Out := done s.storageSync

/-- `sync` (R677): every earlier access has completed on the bus (20_memory.md R189). -/
def execSync (s : State) : Out := done s.storageSync

/-- `isync` (R678). -/
def execIsync (s : State) : Out := done s.contextSync

end Sys2Proof.Machine
end

