-- ==== Sys2Proof/Machine/CrLogic.lean ====
section
/-! DEFINITION. Machine/CrLogic.lean: the CR-logical instructions and `mcrf` (40_branch_cr_system.md R388 to R396). -/

namespace Sys2Proof.Machine

/-- CR[crbD] <- v. -/
def State.setCrBit (s : State) (i : BitVec 5) (v : Bool) : State := { s with cr := setBit s.cr i.toNat v }

/-- `crand` (R388). -/
def execCrand (crbD crbA crbB : BitVec 5) (s : State) : Out :=
  done (s.setCrBit crbD (s.crBit crbA && s.crBit crbB))

/-- `crandc` (R389). -/
def execCrandc (crbD crbA crbB : BitVec 5) (s : State) : Out :=
  done (s.setCrBit crbD (s.crBit crbA && !s.crBit crbB))

/-- `creqv` (R390). -/
def execCreqv (crbD crbA crbB : BitVec 5) (s : State) : Out :=
  done (s.setCrBit crbD (!(s.crBit crbA ^^ s.crBit crbB)))

/-- `crnand` (R391). -/
def execCrnand (crbD crbA crbB : BitVec 5) (s : State) : Out :=
  done (s.setCrBit crbD (!(s.crBit crbA && s.crBit crbB)))

/-- `crnor` (R392). -/
def execCrnor (crbD crbA crbB : BitVec 5) (s : State) : Out :=
  done (s.setCrBit crbD (!(s.crBit crbA || s.crBit crbB)))

/-- `cror` (R393). -/
def execCror (crbD crbA crbB : BitVec 5) (s : State) : Out :=
  done (s.setCrBit crbD (s.crBit crbA || s.crBit crbB))

/-- `crorc` (R394). -/
def execCrorc (crbD crbA crbB : BitVec 5) (s : State) : Out :=
  done (s.setCrBit crbD (s.crBit crbA || !s.crBit crbB))

/-- `crxor` (R395). -/
def execCrxor (crbD crbA crbB : BitVec 5) (s : State) : Out :=
  done (s.setCrBit crbD (s.crBit crbA ^^ s.crBit crbB))

/-- `mcrf` (R396). -/
def execMcrf (crfD crfS : BitVec 3) (s : State) : Out :=
  done (s.setCrField crfD (crFieldOf s.cr crfS))

end Sys2Proof.Machine
end

