-- ==== Sys2Proof/Machine/Access.lean ====
section
/-! DEFINITION. Machine/Access.lean: loads and stores as the processor performs them (20_memory.md R142 to R148, R158, R186,
60_exceptions.md R752, 70_reset_and_hazards.md R966). The operand of an access is cut at word boundaries into parts. All parts are
translated and checked first, then the debug compare is made, then the bytes move part by part. -/

namespace Sys2Proof.Machine

/-- A part of an access, within one word: the effective address of its first byte, its length (1 to 4), and the address it is
compared with DAC under (61_timers_debug.md R875). -/
structure Part where
  ea : Word
  len : Nat
  dac : Word
  deriving DecidableEq, Repr

/-- The operand of an access: its effective address, its bytes, and how many of them make a value whose byte order follows the
storage (20_memory.md R148): a scalar's width, 4 for a multiple, 0 for a string, whose bytes keep their order. -/
structure Operand where
  ea : Word
  size : Nat
  unit : Nat
  /-- The operand of a scalar instruction, of which a load accesses no other byte (20_memory.md R199), and which the guarded attribute
  protects from being restarted (60_exceptions.md R752). -/
  single : Bool
  deriving DecidableEq, Repr

/-- A scalar of `n` bytes. -/
def scalar (ea : Word) (n : Nat) : Operand := { ea := ea, size := n, unit := n, single := true }

/-- The `n` words of a load or store multiple. -/
def multiple (ea : Word) (n : Nat) : Operand := { ea := ea, size := 4 * n, unit := 4, single := false }

/-- A string of `n` bytes. -/
def string (ea : Word) (n : Nat) : Operand := { ea := ea, size := n, unit := 0, single := false }

/-- `n` bytes from `ea` on, cut at word boundaries (`fuel` at least the number of pieces). Strings access memory under word-aligned
addresses (`str`). -/
def pieces (str : Bool) : Nat → Word → Nat → List Part
  | 0, _, _ => []
  | fuel + 1, ea, n =>
    if n = 0 then []
    else
      let k := min n (4 - ea.toNat % 4)
      { ea := ea, len := k, dac := if str then wordAlign ea else ea } ::
        pieces str fuel (ea + BitVec.ofNat 32 k) (n - k)

/-- The parts of an operand: one or two of a scalar (R186), and for strings and multiples word-aligned accesses with what stands
before the first and after the last whole word (R966). A string part is compared with DAC under its word address (R875); for a
scalar and a multiple the spec leaves the addresses open, and the model takes the operand's address and the word addresses after
it (DESIGN CHOICE, unsafe, 91_not_in_source.md N61.2, log entry 20). -/
def Operand.parts (o : Operand) : List Part := pieces (o.unit == 0) (o.size + 1) o.ea o.size

/-- Whether a value crosses a word boundary, so that the processor performs its accesses separately (61_timers_debug.md R876). -/
def Operand.split (o : Operand) : Bool := decide (4 < o.ea.toNat % 4 + o.unit)

/-! ### Byte order -/

/-- Whether each part lies in little-endian storage. -/
def orders (xs : List Xlat) : List Bool := xs.map fun x => x.attr.e

/-- Bytes in memory order cut into complete values of `n` bytes, each in register order: reversed where the storage of the value's
first byte is little-endian (R148; log entry 9). -/
def valuesOf (n : Nat) : List Bool → List Byte → List (List Byte)
  | [], _ => []
  | e :: es, bs =>
    if bs.length < n then []
    else (if e then (bs.take n).reverse else bs.take n) :: valuesOf n es (bs.drop n)

/-- Values in register order as bytes in memory order. -/
def memoryOrder : List Bool → List (List Byte) → List Byte
  | e :: es, v :: vs => (if e then v.reverse else v) ++ memoryOrder es vs
  | [], _ => []
  | _ :: _, [] => []

/-- The values in the bytes of an operand that were loaded: of a string, its bytes, and the complete words where it was loaded in
part. -/
def Operand.values (o : Operand) (es : List Bool) (bs : List Byte) : List (List Byte) :=
  if o.unit = 0 then [if bs.length = o.size then bs else bs.take (bs.length / 4 * 4)] else valuesOf o.unit es bs

/-- What a load of an operand, or of a prefix of its parts, gives. -/
structure Loaded where
  /-- The values, in register order. -/
  values : List (List Byte)
  /-- The words of the operand, counted from its first byte, that received a bus error: what a register gets of them is undefined
  (60_exceptions.md R766). -/
  failed : List Nat
  deriving DecidableEq, Repr

/-- The words of an operand that received a bus error: those that a part with an error lies in. `k` bytes stand before these parts. -/
def failedWords (k : Nat) : List Received → List Nat
  | [] => []
  | r :: rs =>
    (if r.error then [k / 4, (k + r.bytes.length - 1) / 4] else []) ++ failedWords (k + r.bytes.length) rs

/-- What the parts of an operand that were loaded give. -/
def Operand.loaded (o : Operand) (es : List Bool) (rs : List Received) : Loaded :=
  { values := o.values es (rs.map Received.bytes).flatten, failed := failedWords 0 rs }

/-- The bytes of memory that values stored to an operand make. -/
def Operand.bytes (o : Operand) (es : List Bool) (vs : List (List Byte)) : List Byte :=
  if o.unit = 0 then vs.flatten else memoryOrder es vs

/-! ### Checks -/

/-- The result of translating and checking the parts of an access in order: all of them, or those before the one that failed. -/
inductive Plan where
  | ok (xs : List Xlat) (s : State)
  | exc (before : List Xlat) (e : Exc) (s : State)
  | fault (f : Fault)
  deriving Repr

/-- A plan with one more part in front. -/
def Plan.cons (x : Xlat) : Plan → Plan
  | .ok xs s => .ok (x :: xs) s
  | .exc before e s => .exc (x :: before) e s
  | .fault f => .fault f

/-- Translation and protection of every part, in order. -/
def planParts (k : AccKind) : List Part → State → Plan
  | [], s => .ok [] s
  | p :: ps, s =>
    match dataCheck k p.ea s with
    | .ok x t => (planParts k ps t).cons x
    | .exc e t => .exc [] e t
    | .fault f => .fault f

/-! ### Moving bytes -/

/-- The `n` bytes of a part loaded. Of a multiple or a string (`whole`) the aligned word that the part lies in is read whole, and its
other bytes are discarded (70_reset_and_hazards.md R966); whether the bus answers with an error for one of these counts as well. -/
def loadWithin (whole : Bool) (x : Xlat) (n : Nat) (s : State) : Res Received :=
  if whole then
    (loadPart { x with ra := wordAlign x.ra } 4 s).bind fun r t =>
      .ok { r with bytes := (r.bytes.drop (x.ra.toNat % 4)).take n } t
  else loadPart x n s

/-- Parts loaded in order, each as its bytes in memory order; fewer if fewer are translated. -/
def loadParts (whole : Bool) : List Part → List Xlat → State → Res (List Received)
  | p :: ps, x :: xs, s =>
    (loadWithin whole x p.len s).bind fun r t => (loadParts whole ps xs t).bind fun rs u => .ok (r :: rs) u
  | [], _, s => .ok [] s
  | _ :: _, [], s => .ok [] s

/-- Bytes stored part by part; fewer if fewer parts are translated. -/
def storeParts : List Part → List Byte → List Xlat → State → Res Unit
  | p :: ps, bs, x :: xs, s =>
    (storePart x (bs.take p.len) s).bind fun _ t => storeParts ps (bs.drop p.len) xs t
  | [], _, _, s => .ok () s
  | _ :: _, _, [], s => .ok () s

/-- The bytes of each part of an operand. -/
def cutBytes : List Part → List Byte → List (List Byte)
  | [], _ => []
  | p :: ps, bs => bs.take p.len :: cutBytes ps (bs.drop p.len)

/-! ### Data value compare -/

/-- The value that a part of an operand is compared with DVC by: known for a whole word that is a value of its own (R876). -/
def Operand.dvcWord (o : Operand) (e : Bool) (p : Part) (bs : List Byte) : Option Word :=
  if p.len = 4 ∧ o.split = false then some (ofBytes (if o.unit ≠ 0 ∧ e = true then bs.reverse else bs)) else none

/-- The DVC checks of parts with their bytes. -/
def dvcParts (write : Bool) (o : Operand) : List Bool → List Part → List (List Byte) → State → State
  | e :: es, p :: ps, bs :: bss, s => dvcParts write o es ps bss (dvcCheck write p.dac (o.dvcWord e p bs) s).2
  | _, _, _, s => s

/-- How many parts of a split operand are accessed: a DVC event of one that stops or interrupts the processor is recorded before the
next one is accessed, which is lost with all after it (R876). The last part is checked after it (`dvcAfter`). -/
def partsBeforeStop (write : Bool) : List Part → State → Nat × State
  | p :: q :: ps, s =>
    let r := dvcCheck write p.dac none s
    if r.1 && s.debugHalts then (1, r.2)
    else
      let c := partsBeforeStop write (q :: ps) r.2
      (c.1 + 1, c.2)
  | [_], s => (1, s)
  | [], s => (0, s)

/-- How many parts of an operand are accessed. -/
def Operand.accessed (write : Bool) (o : Operand) (s : State) : Nat × State :=
  if o.split then partsBeforeStop write o.parts s else (o.parts.length, s)

/-- The DVC checks after the last part was accessed: of that part if the operand is split, of every part if not. -/
def dvcAfter (write : Bool) (o : Operand) (es : List Bool) (bss : List (List Byte)) (s : State) : State :=
  if o.split then
    match o.parts.getLast? with
    | some p => (dvcCheck write p.dac none s).2
    | none => s
  else dvcParts write o es o.parts bss s

/-! ### Whole accesses -/

/-- Translation, protection, the alignment check of an instruction that has one (its address, if misaligned) and the DAC
check of an access (20_memory.md R142). If a part fails after others passed, it is free how many parts of the prefix before it
are performed (R752, D21): `partly` performs them. A misaligned `lwarx` or `stwcx.` whose first part passes and whose second, across a
page or region boundary, does not: whether the second part's exception or Alignment is raised is not stated (R142, R143,
60_exceptions.md R755). Here the second part's exception is, with DEAR the address of that part, and the first part of an `lwarx` may,
freely, have been read before (DESIGN CHOICE, unsafe, log entry 33). -/
def beginAccess (k : AccKind) (ps : List Part) (misaligned : Option Word)
    (partly : List Xlat → State → Res Unit) (s0 : State) : Res (List Xlat) :=
  let s := { s0 with synced := false }
  match planParts k ps s with
  | .fault f => .fault f
  | .exc [] e t => raise e t
  | .exc (x :: xs) e t =>
    let r := drawBelow (xs.length + 2) t
    (partly ((x :: xs).take r.1) r.2).bind fun _ u => raise e u
  | .ok xs t =>
    match misaligned with
    | some ea => raise (.alignment ea) t
    | none => (dacCheck (k == .store) (ps.map Part.dac) t).bind fun _ u => .ok xs u

/-- A data machine check taken at the instruction itself, once the error is acted on (60_exceptions.md R766). -/
def raiseDataError {α : Type} (s : State) : Res α := raise .machineCheckData { s with dataMC := false, mcDue := false }

/-- Whether a data machine check may abandon an access after `n` of its parts. Not a scalar of which a part in guarded storage has been
accessed, which would be accessed again (60_exceptions.md R752, 20_memory.md R199), unless the whole access was performed and the error
is its own (`waiting`: an earlier one), so that SRR2 is the instruction whose access failed (R766). Where only one part of a scalar
is guarded, that part counts (DEDUCED, log entry 19). -/
def Operand.mayStop (o : Operand) (waiting : Bool) (xs : List Xlat) (n : Nat) : Bool :=
  !(o.single && (xs.take n).any fun x => x.attr.g) || (n == xs.length && !waiting)

/-- A whole access that a data bus error may interrupt. Where it met an error, or consists of several parts while an earlier error
waits, a data machine check may, freely, abandon it after any prefix of its parts that `mayStop` admits and by which the error is there
(R752, U9, R766: "at or after" the instruction whose access failed): `partly` performs the prefix. -/
def interruptible {α : Type} (o : Operand) (partly : List Xlat → State → Res Unit) (whole : State → Res α)
    (xs : List Xlat) (s : State) : Res α :=
  (whole s).bind fun a t =>
    if t.dataMC && t.me && (!s.dataMC || decide (2 ≤ xs.length)) then
      let d := drawBelow (xs.length + 2) s
      if d.1 ≤ xs.length && o.mayStop s.dataMC xs d.1 then
        (partly (xs.take d.1) d.2).bind fun _ u => if u.dataMC then raiseDataError u else whole d.2
      else whole d.2
    else .ok a t

/-- The parts of an operand loaded: what they give, and what they leave of the state. Where a DVC event loses later parts, the values
that are not complete are free. -/
def Operand.loadWhole (o : Operand) (xs : List Xlat) (s : State) : Res Loaded :=
  let c := o.accessed false s
  (loadParts (!o.single) o.parts (xs.take c.1) c.2).bind fun rs t =>
    let bss := rs.map Received.bytes
    if c.1 < o.parts.length then
      let kept := bss.flatten.take (bss.flatten.length / o.unit * o.unit)
      let r := drawBytes (o.size - kept.length) t
      .ok { values := o.values (orders xs) (kept ++ r.1), failed := failedWords 0 rs } r.2
    else .ok (o.loaded (orders xs) rs) (dvcAfter false o (orders xs) bss t)

/-- A prefix of the parts of an operand loaded: `put` says what that does to the registers. -/
def Operand.loadPrefix (o : Operand) (put : Loaded → State → State) (xs : List Xlat) (s : State) : Res Unit :=
  (loadParts (!o.single) o.parts xs s).bind fun rs t => .ok () (put (o.loaded (orders xs) rs) t)

/-- A load of an operand. `put` gives what a partly performed access does to the registers. -/
def loadOperand (o : Operand) (misaligned : Option Word) (put : Loaded → State → State) (s : State) : Res Loaded :=
  (beginAccess .load o.parts misaligned (o.loadPrefix put) s).bind fun xs t =>
    interruptible o (o.loadPrefix put) (o.loadWhole xs) xs t

/-- The parts of an operand stored, as far as a DVC event does not lose the later ones. -/
def Operand.storeWhole (o : Operand) (vs : List (List Byte)) (xs : List Xlat) (s : State) : Res Unit :=
  let c := o.accessed true s
  let bs := o.bytes (orders xs) vs
  (storeParts o.parts bs (xs.take c.1) c.2).bind fun _ t =>
    if c.1 < o.parts.length then .ok () t else .ok () (dvcAfter true o (orders xs) (cutBytes o.parts bs) t)

/-- A prefix of the parts of an operand stored; nothing for an instruction that never performs a misaligned access. -/
def Operand.storePrefix (o : Operand) (misaligned : Option Word) (vs : List (List Byte)) (xs : List Xlat) (s : State) : Res Unit :=
  match misaligned with
  | none => storeParts o.parts (o.bytes (orders xs) vs) xs s
  | some _ => .ok () s

/-- A store of values to an operand. -/
def storeOperand (o : Operand) (misaligned : Option Word) (vs : List (List Byte)) (s : State) : Res Unit :=
  (beginAccess .store o.parts misaligned (o.storePrefix misaligned vs) s).bind fun xs t =>
    interruptible o (o.storePrefix misaligned vs) (o.storeWhole vs xs) xs t

/-- The words that a load gives its registers, those of `failed` free (60_exceptions.md R766): whatever the width of the access, the
whole register is undefined. `k` counts the words. -/
def freeFailed (failed : List Nat) (k : Nat) : List Word → State → List Word × State
  | [], s => ([], s)
  | w :: ws, s =>
    let d := if failed.contains k then drawWord s else (w, s)
    let r := freeFailed failed (k + 1) ws d.2
    (d.1 :: r.1, r.2)

/-- A partly performed scalar load for register `rD`: it changes no register (R752), but for one that received a bus error (R766). -/
def putScalar (rD : Reg) (l : Loaded) (s : State) : State :=
  if l.failed = [] then s
  else
    let d := drawWord s
    d.2.setReg rD d.1

/-- A load of one scalar for register `rD`: `f(MemRead(EA, n))` with the bytes zero-extended to a word (20_memory.md R143), a free word
where a part of it received a bus error (60_exceptions.md R766). -/
def loadScalar (rD : Reg) (ea : Word) (n : Nat) (misaligned : Option Word) (f : Word → Word) (s : State) : Res Word :=
  (loadOperand (scalar ea n) misaligned (putScalar rD) s).bind fun l t =>
    if l.failed = [] then .ok (f (ofBytes l.values.flatten)) t
    else
      let d := drawWord t
      .ok d.1 d.2

/-- `MemWrite(EA, n, v)` (20_memory.md R144). -/
def storeScalar (ea : Word) (n : Nat) (misaligned : Option Word) (v : Word) (s : State) : Res Unit :=
  storeOperand (scalar ea n) misaligned [bytesOf n v] s

end Sys2Proof.Machine
end

