-- ==== Sys2Proof/Machine/LoadStore.lean ====
section
/-! DEFINITION. Machine/LoadStore.lean: loads and stores of one scalar, byte-reversed, with reservation (41_load_store.md R430 to
R461, R470, R471). -/

namespace Sys2Proof.Machine

/-- A load: `GPR[rD] <- f(MemRead(EA, n))`. -/
def loadTo (rD : Reg) (ea : Word) (n : Nat) (f : Word → Word) (s : State) : Out :=
  (loadScalar rD ea n none f s).andThen fun v t => done (t.setReg rD v)

/-- A load with update: `GPR[rA] <- EA` after the access; rA = 0 and rA = rD are invalid forms (R422, U21). -/
def loadUpdate (rD rA : Reg) (ea : Word) (n : Nat) (f : Word → Word) (s : State) : Out :=
  if rA = 0#5 ∨ rA = rD then .refused .invalidUpdateForm
  else (loadScalar rD ea n none f s).andThen fun v t => done ((t.setReg rD v).setReg rA ea)

/-- A store: `MemWrite(EA, n, v)`. -/
def storeTo (ea : Word) (n : Nat) (v : Word) (s : State) : Out :=
  (storeScalar ea n none v s).andThen fun _ t => done t

/-- A store with update: rA = 0 is an invalid form; the value stored is the one from before the update (R422). -/
def storeUpdate (rA : Reg) (ea : Word) (n : Nat) (v : Word) (s : State) : Out :=
  if rA = 0#5 then .refused .invalidUpdateForm
  else (storeScalar ea n none v s).andThen fun _ t => done (t.setReg rA ea)

/-- `sext_32` of a halfword. -/
def signHalf (v : Word) : Word := (v.setWidth 16).signExtend 32

/-- The bytes of a halfword exchanged. -/
def reverseHalf (v : Word) : Word := (v.extractLsb' 0 8 ++ v.extractLsb' 8 8).setWidth 32

/-- `lbz` (R430). -/
def execLbz (rD rA : Reg) (d : BitVec 16) (s : State) : Out := loadTo rD (s.eaD rA d) 1 id s

/-- `lbzu` (R431). -/
def execLbzu (rD rA : Reg) (d : BitVec 16) (s : State) : Out := loadUpdate rD rA (s.eaD rA d) 1 id s

/-- `lbzux` (R432). -/
def execLbzux (rD rA rB : Reg) (s : State) : Out := loadUpdate rD rA (s.eaX rA rB) 1 id s

/-- `lbzx` (R433). -/
def execLbzx (rD rA rB : Reg) (s : State) : Out := loadTo rD (s.eaX rA rB) 1 id s

/-- `lha` (R434). -/
def execLha (rD rA : Reg) (d : BitVec 16) (s : State) : Out := loadTo rD (s.eaD rA d) 2 signHalf s

/-- `lhau` (R435). -/
def execLhau (rD rA : Reg) (d : BitVec 16) (s : State) : Out := loadUpdate rD rA (s.eaD rA d) 2 signHalf s

/-- `lhaux` (R436). -/
def execLhaux (rD rA rB : Reg) (s : State) : Out := loadUpdate rD rA (s.eaX rA rB) 2 signHalf s

/-- `lhax` (R437). -/
def execLhax (rD rA rB : Reg) (s : State) : Out := loadTo rD (s.eaX rA rB) 2 signHalf s

/-- `lhz` (R438). -/
def execLhz (rD rA : Reg) (d : BitVec 16) (s : State) : Out := loadTo rD (s.eaD rA d) 2 id s

/-- `lhzu` (R439). -/
def execLhzu (rD rA : Reg) (d : BitVec 16) (s : State) : Out := loadUpdate rD rA (s.eaD rA d) 2 id s

/-- `lhzux` (R440). -/
def execLhzux (rD rA rB : Reg) (s : State) : Out := loadUpdate rD rA (s.eaX rA rB) 2 id s

/-- `lhzx` (R441). -/
def execLhzx (rD rA rB : Reg) (s : State) : Out := loadTo rD (s.eaX rA rB) 2 id s

/-- `lwz` (R442). -/
def execLwz (rD rA : Reg) (d : BitVec 16) (s : State) : Out := loadTo rD (s.eaD rA d) 4 id s

/-- `lwzu` (R443). -/
def execLwzu (rD rA : Reg) (d : BitVec 16) (s : State) : Out := loadUpdate rD rA (s.eaD rA d) 4 id s

/-- `lwzux` (R444). -/
def execLwzux (rD rA rB : Reg) (s : State) : Out := loadUpdate rD rA (s.eaX rA rB) 4 id s

/-- `lwzx` (R445). -/
def execLwzx (rD rA rB : Reg) (s : State) : Out := loadTo rD (s.eaX rA rB) 4 id s

/-- `stb` (R446). -/
def execStb (rS rA : Reg) (d : BitVec 16) (s : State) : Out := storeTo (s.eaD rA d) 1 (s.reg rS) s

/-- `stbu` (R447). -/
def execStbu (rS rA : Reg) (d : BitVec 16) (s : State) : Out := storeUpdate rA (s.eaD rA d) 1 (s.reg rS) s

/-- `stbux` (R448). -/
def execStbux (rS rA rB : Reg) (s : State) : Out := storeUpdate rA (s.eaX rA rB) 1 (s.reg rS) s

/-- `stbx` (R449). -/
def execStbx (rS rA rB : Reg) (s : State) : Out := storeTo (s.eaX rA rB) 1 (s.reg rS) s

/-- `sth` (R450). -/
def execSth (rS rA : Reg) (d : BitVec 16) (s : State) : Out := storeTo (s.eaD rA d) 2 (s.reg rS) s

/-- `sthu` (R451). -/
def execSthu (rS rA : Reg) (d : BitVec 16) (s : State) : Out := storeUpdate rA (s.eaD rA d) 2 (s.reg rS) s

/-- `sthux` (R452). -/
def execSthux (rS rA rB : Reg) (s : State) : Out := storeUpdate rA (s.eaX rA rB) 2 (s.reg rS) s

/-- `sthx` (R453). -/
def execSthx (rS rA rB : Reg) (s : State) : Out := storeTo (s.eaX rA rB) 2 (s.reg rS) s

/-- `stw` (R454). -/
def execStw (rS rA : Reg) (d : BitVec 16) (s : State) : Out := storeTo (s.eaD rA d) 4 (s.reg rS) s

/-- `stwu` (R455). -/
def execStwu (rS rA : Reg) (d : BitVec 16) (s : State) : Out := storeUpdate rA (s.eaD rA d) 4 (s.reg rS) s

/-- `stwux` (R456). -/
def execStwux (rS rA rB : Reg) (s : State) : Out := storeUpdate rA (s.eaX rA rB) 4 (s.reg rS) s

/-- `stwx` (R457). -/
def execStwx (rS rA rB : Reg) (s : State) : Out := storeTo (s.eaX rA rB) 4 (s.reg rS) s

/-- `lhbrx` (R458). -/
def execLhbrx (rD rA rB : Reg) (s : State) : Out := loadTo rD (s.eaX rA rB) 2 reverseHalf s

/-- `lwbrx` (R459). -/
def execLwbrx (rD rA rB : Reg) (s : State) : Out := loadTo rD (s.eaX rA rB) 4 byteReverse s

/-- `sthbrx` (R460). -/
def execSthbrx (rS rA rB : Reg) (s : State) : Out := storeTo (s.eaX rA rB) 2 (reverseHalf (s.reg rS)) s

/-- `stwbrx` (R461). -/
def execStwbrx (rS rA rB : Reg) (s : State) : Out := storeTo (s.eaX rA rB) 4 (byteReverse (s.reg rS)) s

/-- The address of an access that must be word-aligned, if it is not. -/
def misalignedWord (ea : Word) : Option Word := if ea.extractLsb' 0 2 = 0#2 then none else some ea

/-- `lwarx` (R470). -/
def execLwarx (rD rA rB : Reg) (s : State) : Out :=
  let ea := s.eaX rA rB
  (loadScalar rD ea 4 (misalignedWord ea) id s).andThen fun v t => done { t.setReg rD v with reserve := true }

/-- CR0 and RESERVE after `stwcx.`. -/
def State.conditional (s : State) (stored : Bool) : State :=
  { s.setCrField 0#3 (crBits false false stored s.so) with reserve := false }

/-- `stwcx.` (R471). Its address is checked whether or not there is a reservation (92_eei_decisions.md D15). Whether one that finds
no reservation causes a DAC-write event is not stated (61_timers_debug.md R875, 91_not_in_source.md N61.3): here it makes the
DAC-write check too (DESIGN CHOICE, unsafe, log entry 21). -/
def execStwcx (rS rA rB : Reg) (s : State) : Out :=
  let ea := s.eaX rA rB
  if s.reserve then
    (storeScalar ea 4 (misalignedWord ea) (s.reg rS) s).andThen fun _ t => done (t.conditional true)
  else
    (beginAccess .store (scalar ea 4).parts (misalignedWord ea) (fun _ t => .ok () t) s).andThen fun _ t =>
      done (t.conditional false)

end Sys2Proof.Machine
end

