-- ==== Sys2Proof/Machine/Logic.lean ====
section
/-! DEFINITION. Machine/Logic.lean: logical, compare, rotate and shift instructions (43_logical_compare_rotate_shift.md R551 to
R593). -/

namespace Sys2Proof.Machine

/-- GPR[rA] <- res, with CR0 if Rc = 1 (R550). -/
def State.writeLogic (s : State) (rA : Reg) (res : Word) (rc : Bool) : State := (s.setReg rA res).recordIf rc res

/-- The same with XER[CA] <- ca. -/
def State.writeShift (s : State) (rA : Reg) (res : Word) (ca rc : Bool) : State :=
  ((s.setReg rA res).setCa ca).recordIf rc res

/-- `and` (R551). -/
def execAnd (rA rS rB : Reg) (rc : Bool) (s : State) : Out :=
  done (s.writeLogic rA (s.reg rS &&& s.reg rB) rc)

/-- `andc` (R552). -/
def execAndc (rA rS rB : Reg) (rc : Bool) (s : State) : Out :=
  done (s.writeLogic rA (s.reg rS &&& ~~~s.reg rB) rc)

/-- `eqv` (R555). -/
def execEqv (rA rS rB : Reg) (rc : Bool) (s : State) : Out :=
  done (s.writeLogic rA (~~~(s.reg rS ^^^ s.reg rB)) rc)

/-- `nand` (R558). -/
def execNand (rA rS rB : Reg) (rc : Bool) (s : State) : Out :=
  done (s.writeLogic rA (~~~(s.reg rS &&& s.reg rB)) rc)

/-- `nor` (R559). -/
def execNor (rA rS rB : Reg) (rc : Bool) (s : State) : Out :=
  done (s.writeLogic rA (~~~(s.reg rS ||| s.reg rB)) rc)

/-- `or` (R560). -/
def execOr (rA rS rB : Reg) (rc : Bool) (s : State) : Out :=
  done (s.writeLogic rA (s.reg rS ||| s.reg rB) rc)

/-- `orc` (R561). -/
def execOrc (rA rS rB : Reg) (rc : Bool) (s : State) : Out :=
  done (s.writeLogic rA (s.reg rS ||| ~~~s.reg rB) rc)

/-- `xor` (R564). -/
def execXor (rA rS rB : Reg) (rc : Bool) (s : State) : Out :=
  done (s.writeLogic rA (s.reg rS ^^^ s.reg rB) rc)

/-- `andi.` (R553). -/
def execAndiDot (rA rS : Reg) (uimm : BitVec 16) (s : State) : Out :=
  done (s.writeLogic rA (s.reg rS &&& uimm32 uimm) true)

/-- `andis.` (R554). -/
def execAndisDot (rA rS : Reg) (uimm : BitVec 16) (s : State) : Out :=
  done (s.writeLogic rA (s.reg rS &&& imm32Shifted uimm) true)

/-- `ori` (R562). -/
def execOri (rA rS : Reg) (uimm : BitVec 16) (s : State) : Out :=
  done (s.writeLogic rA (s.reg rS ||| uimm32 uimm) false)

/-- `oris` (R563). -/
def execOris (rA rS : Reg) (uimm : BitVec 16) (s : State) : Out :=
  done (s.writeLogic rA (s.reg rS ||| imm32Shifted uimm) false)

/-- `xori` (R565). -/
def execXori (rA rS : Reg) (uimm : BitVec 16) (s : State) : Out :=
  done (s.writeLogic rA (s.reg rS ^^^ uimm32 uimm) false)

/-- `xoris` (R566). -/
def execXoris (rA rS : Reg) (uimm : BitVec 16) (s : State) : Out :=
  done (s.writeLogic rA (s.reg rS ^^^ imm32Shifted uimm) false)

/-- `extsb` (R556). -/
def execExtsb (rA rS : Reg) (rc : Bool) (s : State) : Out :=
  done (s.writeLogic rA (((s.reg rS).setWidth 8).signExtend 32) rc)

/-- `extsh` (R557). -/
def execExtsh (rA rS : Reg) (rc : Bool) (s : State) : Out :=
  done (s.writeLogic rA (((s.reg rS).setWidth 16).signExtend 32) rc)

/-- `cntlzw` (R567). -/
def execCntlzw (rA rS : Reg) (rc : Bool) (s : State) : Out :=
  done (s.writeLogic rA (BitVec.ofNat 32 (leadingZeros (s.reg rS))) rc)

/-- `cmp` (R570). -/
def execCmp (crfD : BitVec 3) (rA rB : Reg) (s : State) : Out :=
  done (s.setCrField crfD (signedCompare (s.reg rA) (s.reg rB) s.so))

/-- `cmpi` (R571). -/
def execCmpi (crfD : BitVec 3) (rA : Reg) (simm : BitVec 16) (s : State) : Out :=
  done (s.setCrField crfD (signedCompare (s.reg rA) (simm32 simm) s.so))

/-- `cmpl` (R572). -/
def execCmpl (crfD : BitVec 3) (rA rB : Reg) (s : State) : Out :=
  done (s.setCrField crfD (unsignedCompare (s.reg rA) (s.reg rB) s.so))

/-- `cmpli` (R573). -/
def execCmpli (crfD : BitVec 3) (rA : Reg) (uimm : BitVec 16) (s : State) : Out :=
  done (s.setCrField crfD (unsignedCompare (s.reg rA) (uimm32 uimm) s.so))

/-- `rlwimi` (R586): the rotated data inserted under the mask. -/
def execRlwimi (rA rS : Reg) (sh mb me : BitVec 5) (rc : Bool) (s : State) : Out :=
  done (s.writeLogic rA ((rotl (s.reg rS) sh &&& mask mb me) ||| (s.reg rA &&& ~~~mask mb me)) rc)

/-- `rlwinm` (R587). -/
def execRlwinm (rA rS : Reg) (sh mb me : BitVec 5) (rc : Bool) (s : State) : Out :=
  done (s.writeLogic rA (rotl (s.reg rS) sh &&& mask mb me) rc)

/-- `rlwnm` (R588). -/
def execRlwnm (rA rS rB : Reg) (mb me : BitVec 5) (rc : Bool) (s : State) : Out :=
  done (s.writeLogic rA (rotl (s.reg rS) ((s.reg rB).setWidth 5) &&& mask mb me) rc)

/-- `slw` (R590). -/
def execSlw (rA rS rB : Reg) (rc : Bool) (s : State) : Out :=
  done (s.writeLogic rA (rotl (s.reg rS) ((s.reg rB).setWidth 5) &&& leftMask ((s.reg rB).setWidth 6)) rc)

/-- `sraw` (R591). -/
def execSraw (rA rS rB : Reg) (rc : Bool) (s : State) : Out :=
  let n : BitVec 6 := (s.reg rB).setWidth 6
  done (s.writeShift rA (algebraicShift (s.reg rS) n) (algebraicCarry (s.reg rS) n) rc)

/-- `srawi` (R592). -/
def execSrawi (rA rS : Reg) (sh : BitVec 5) (rc : Bool) (s : State) : Out :=
  let n : BitVec 6 := sh.setWidth 6
  done (s.writeShift rA (algebraicShift (s.reg rS) n) (algebraicCarry (s.reg rS) n) rc)

/-- `srw` (R593). -/
def execSrw (rA rS rB : Reg) (rc : Bool) (s : State) : Out :=
  done (s.writeLogic rA (rotr (s.reg rS) ((s.reg rB).setWidth 5) &&& rightMask ((s.reg rB).setWidth 6)) rc)

end Sys2Proof.Machine
end

