-- ==== Sys2Proof/Machine/Mac.lean ====
section
/-! DEFINITION. Machine/Mac.lean: multiply-accumulate and multiply-halfword instructions (44_mac.md R615 to R638). -/

namespace Sys2Proof.Machine

/-- `macchw` (R615). -/
def execMacchw (rD rA rB : Reg) (oe rc : Bool) (s : State) : Out :=
  done (s.accumulate rD (accSigned (signedProduct (lowerHalf (s.reg rA)) (upperHalf (s.reg rB))) (s.reg rD)) oe rc)

/-- `macchws` (R616). -/
def execMacchws (rD rA rB : Reg) (oe rc : Bool) (s : State) : Out :=
  done (s.accumulate rD (accSignedSat (signedProduct (lowerHalf (s.reg rA)) (upperHalf (s.reg rB))) (s.reg rD)) oe rc)

/-- `macchwsu` (R617). -/
def execMacchwsu (rD rA rB : Reg) (oe rc : Bool) (s : State) : Out :=
  done (s.accumulate rD (accUnsignedSat (unsignedProduct (lowerHalf (s.reg rA)) (upperHalf (s.reg rB))) (s.reg rD)) oe rc)

/-- `macchwu` (R618). -/
def execMacchwu (rD rA rB : Reg) (oe rc : Bool) (s : State) : Out :=
  done (s.accumulate rD (accUnsigned (unsignedProduct (lowerHalf (s.reg rA)) (upperHalf (s.reg rB))) (s.reg rD)) oe rc)

/-- `machhw` (R619). -/
def execMachhw (rD rA rB : Reg) (oe rc : Bool) (s : State) : Out :=
  done (s.accumulate rD (accSigned (signedProduct (upperHalf (s.reg rA)) (upperHalf (s.reg rB))) (s.reg rD)) oe rc)

/-- `machhws` (R620). -/
def execMachhws (rD rA rB : Reg) (oe rc : Bool) (s : State) : Out :=
  done (s.accumulate rD (accSignedSat (signedProduct (upperHalf (s.reg rA)) (upperHalf (s.reg rB))) (s.reg rD)) oe rc)

/-- `machhwsu` (R621). -/
def execMachhwsu (rD rA rB : Reg) (oe rc : Bool) (s : State) : Out :=
  done (s.accumulate rD (accUnsignedSat (unsignedProduct (upperHalf (s.reg rA)) (upperHalf (s.reg rB))) (s.reg rD)) oe rc)

/-- `machhwu` (R622). -/
def execMachhwu (rD rA rB : Reg) (oe rc : Bool) (s : State) : Out :=
  done (s.accumulate rD (accUnsigned (unsignedProduct (upperHalf (s.reg rA)) (upperHalf (s.reg rB))) (s.reg rD)) oe rc)

/-- `maclhw` (R623). -/
def execMaclhw (rD rA rB : Reg) (oe rc : Bool) (s : State) : Out :=
  done (s.accumulate rD (accSigned (signedProduct (lowerHalf (s.reg rA)) (lowerHalf (s.reg rB))) (s.reg rD)) oe rc)

/-- `maclhws` (R624). -/
def execMaclhws (rD rA rB : Reg) (oe rc : Bool) (s : State) : Out :=
  done (s.accumulate rD (accSignedSat (signedProduct (lowerHalf (s.reg rA)) (lowerHalf (s.reg rB))) (s.reg rD)) oe rc)

/-- `maclhwsu` (R625). -/
def execMaclhwsu (rD rA rB : Reg) (oe rc : Bool) (s : State) : Out :=
  done (s.accumulate rD (accUnsignedSat (unsignedProduct (lowerHalf (s.reg rA)) (lowerHalf (s.reg rB))) (s.reg rD)) oe rc)

/-- `maclhwu` (R626). -/
def execMaclhwu (rD rA rB : Reg) (oe rc : Bool) (s : State) : Out :=
  done (s.accumulate rD (accUnsigned (unsignedProduct (lowerHalf (s.reg rA)) (lowerHalf (s.reg rB))) (s.reg rD)) oe rc)

/-- `nmacchw` (R627): the product is negated. -/
def execNmacchw (rD rA rB : Reg) (oe rc : Bool) (s : State) : Out :=
  done (s.accumulate rD (accSigned (-signedProduct (lowerHalf (s.reg rA)) (upperHalf (s.reg rB))) (s.reg rD)) oe rc)

/-- `nmacchws` (R628): the product is negated. -/
def execNmacchws (rD rA rB : Reg) (oe rc : Bool) (s : State) : Out :=
  done (s.accumulate rD (accSignedSat (-signedProduct (lowerHalf (s.reg rA)) (upperHalf (s.reg rB))) (s.reg rD)) oe rc)

/-- `nmachhw` (R629): the product is negated. -/
def execNmachhw (rD rA rB : Reg) (oe rc : Bool) (s : State) : Out :=
  done (s.accumulate rD (accSigned (-signedProduct (upperHalf (s.reg rA)) (upperHalf (s.reg rB))) (s.reg rD)) oe rc)

/-- `nmachhws` (R630): the product is negated. -/
def execNmachhws (rD rA rB : Reg) (oe rc : Bool) (s : State) : Out :=
  done (s.accumulate rD (accSignedSat (-signedProduct (upperHalf (s.reg rA)) (upperHalf (s.reg rB))) (s.reg rD)) oe rc)

/-- `nmaclhw` (R631): the product is negated. -/
def execNmaclhw (rD rA rB : Reg) (oe rc : Bool) (s : State) : Out :=
  done (s.accumulate rD (accSigned (-signedProduct (lowerHalf (s.reg rA)) (lowerHalf (s.reg rB))) (s.reg rD)) oe rc)

/-- `nmaclhws` (R632): the product is negated. -/
def execNmaclhws (rD rA rB : Reg) (oe rc : Bool) (s : State) : Out :=
  done (s.accumulate rD (accSignedSat (-signedProduct (lowerHalf (s.reg rA)) (lowerHalf (s.reg rB))) (s.reg rD)) oe rc)

/-- `mulchw` (R633). -/
def execMulchw (rD rA rB : Reg) (rc : Bool) (s : State) : Out :=
  let res : Word := signedProduct (lowerHalf (s.reg rA)) (upperHalf (s.reg rB))
  done ((s.setReg rD res).recordIf rc res)

/-- `mulchwu` (R634). -/
def execMulchwu (rD rA rB : Reg) (rc : Bool) (s : State) : Out :=
  let res : Word := unsignedProduct (lowerHalf (s.reg rA)) (upperHalf (s.reg rB))
  done ((s.setReg rD res).recordIf rc res)

/-- `mulhhw` (R635). -/
def execMulhhw (rD rA rB : Reg) (rc : Bool) (s : State) : Out :=
  let res : Word := signedProduct (upperHalf (s.reg rA)) (upperHalf (s.reg rB))
  done ((s.setReg rD res).recordIf rc res)

/-- `mulhhwu` (R636). -/
def execMulhhwu (rD rA rB : Reg) (rc : Bool) (s : State) : Out :=
  let res : Word := unsignedProduct (upperHalf (s.reg rA)) (upperHalf (s.reg rB))
  done ((s.setReg rD res).recordIf rc res)

/-- `mullhw` (R637). -/
def execMullhw (rD rA rB : Reg) (rc : Bool) (s : State) : Out :=
  let res : Word := signedProduct (lowerHalf (s.reg rA)) (lowerHalf (s.reg rB))
  done ((s.setReg rD res).recordIf rc res)

/-- `mullhwu` (R638). -/
def execMullhwu (rD rA rB : Reg) (rc : Bool) (s : State) : Out :=
  let res : Word := unsignedProduct (lowerHalf (s.reg rA)) (lowerHalf (s.reg rB))
  done ((s.setReg rD res).recordIf rc res)

end Sys2Proof.Machine
end

