-- ==== Sys2Proof/Machine/Multiple.lean ====
section
/-! DEFINITION. Machine/Multiple.lean: load and store multiple and string (41_load_store.md R462 to R467). -/

namespace Sys2Proof.Machine

/-- Words loaded into consecutive registers from `r` on, wrapping through GPR0. The register rA is left out unless it is the
last of the range (R462, R464). -/
def writeRegs (rA last : Reg) : Reg → List Word → State → State
  | _, [], s => s
  | r, v :: vs, s => writeRegs rA last (r + 1#5) vs (if r ≠ rA ∨ r = last then s.setReg r v else s)

/-- What a load of a multiple or a string does to the registers: its words in them, free where one received a bus error (60_exceptions.md
R766). -/
def putWords (rA last rD : Reg) (failed : List Nat) (ws : List Word) (s : State) : State :=
  let r := freeFailed failed 0 ws s
  writeRegs rA last rD r.1 r.2

/-- The contents of `n` consecutive registers from `r` on, wrapping through GPR0. -/
def readRegs : Reg → Nat → State → List Word
  | _, 0, _ => []
  | r, n + 1, s => s.reg r :: readRegs (r + 1#5) n s

/-- Bytes grouped into words, the most significant first; the last word is filled up with zeros (R464). -/
def wordsOf : List Byte → List Word
  | a :: b :: c :: d :: r => (a ++ b ++ c ++ d) :: wordsOf r
  | [a, b, c] => [a ++ b ++ c ++ 0#8]
  | [a, b] => [a ++ b ++ 0#16]
  | [a] => [a ++ 0#24]
  | [] => []

/-- How many registers `rD` to 31 are. -/
def multipleCount (r : Reg) : Nat := 32 - r.toNat

/-- `lmw` (R462). -/
def execLmw (rD rA : Reg) (d : BitVec 16) (s : State) : Out :=
  let put (l : Loaded) (t : State) : State := putWords rA 31#5 rD l.failed (l.values.map ofBytes) t
  (loadOperand (multiple (s.eaD rA d) (multipleCount rD)) none put s).andThen fun l t => done (put l t)

/-- `stmw` (R463). -/
def execStmw (rS rA : Reg) (d : BitVec 16) (s : State) : Out :=
  let vs := (readRegs rS (multipleCount rS) s).map (bytesOf 4)
  (storeOperand (multiple (s.eaD rA d) (multipleCount rS)) none vs s).andThen fun _ t => done t

/-- The number of bytes of an immediate string: 0 means 32. -/
def stringCount (nb : BitVec 5) : Nat := if nb = 0#5 then 32 else nb.toNat

/-- XER[TBC] (10_state.md R48). -/
def State.tbc (s : State) : Nat := (s.xer.extractLsb' 0 7).toNat

/-- The last register that a string of `n` bytes loads: `(rD + nr − 1) mod 32`. -/
def stringLast (rD : Reg) (n : Nat) : Reg := rD + BitVec.ofNat 5 ((n + 3) / 4) - 1#5

/-- A string of `n` bytes, not 0, loaded into registers. -/
def loadString (rD rA : Reg) (ea : Word) (n : Nat) (s : State) : Out :=
  let put (l : Loaded) (t : State) : State := putWords rA (stringLast rD n) rD l.failed (wordsOf l.values.flatten) t
  (loadOperand (string ea n) none put s).andThen fun l t => done (put l t)

/-- A string of `n` bytes stored from registers. -/
def storeString (rS : Reg) (ea : Word) (n : Nat) (s : State) : Out :=
  let vs := (readRegs rS ((n + 3) / 4) s).map (bytesOf 4)
  (storeOperand (string ea n) none [vs.flatten.take n] s).andThen fun _ t => done t

/-- `lswi` (R464). -/
def execLswi (rD rA : Reg) (nb : BitVec 5) (s : State) : Out := loadString rD rA (s.eaR rA) (stringCount nb) s

/-- `lswx` (R465): nothing if XER[TBC] = 0. -/
def execLswx (rD rA rB : Reg) (s : State) : Out :=
  if s.tbc = 0 then done s else loadString rD rA (s.eaX rA rB) s.tbc s

/-- `stswi` (R466). -/
def execStswi (rS rA : Reg) (nb : BitVec 5) (s : State) : Out := storeString rS (s.eaR rA) (stringCount nb) s

/-- `stswx` (R467): nothing if XER[TBC] = 0. -/
def execStswx (rS rA rB : Reg) (s : State) : Out :=
  if s.tbc = 0 then done s else storeString rS (s.eaX rA rB) s.tbc s

end Sys2Proof.Machine
end

