-- ==== Sys2Proof/Machine/System.lean ====
section
/-! DEFINITION. Machine/System.lean: system call, traps and the returns from interrupts (40_branch_cr_system.md R397 to
R401). -/

namespace Sys2Proof.Machine

/-- `sc` (R397, 60_exceptions.md R776): the system-call interrupt with the return address after the `sc`. Exception-taken and
instruction-complete events, where enabled, follow the entry as one debug event (61_timers_debug.md R879, R881; log entry
10). -/
def execSc (s : State) : Out :=
  let t := interruptEntry .systemCall (s.pc + 4#32) s
  let ic := bit s.debugNow.dbcr0 4
  let ev := oneBit 2 (bit t.debugNow.dbcr0 6) ||| oneBit 0 (ic && !s.quietDebug)
  .next
    (if ev = 0#32 then (if ic then freezeTimers t else t)
     else (debugEventWith t.de (bit t.debugNow.dbcr0 6 || !t.idm) ev t.pc t).state)

/-- `tw` (R398). -/
def execTw (trapOn : BitVec 5) (rA rB : Reg) (s : State) : Out :=
  if trapCondition trapOn (s.reg rA) (s.reg rB) then trapTaken s else done s

/-- `twi` (R399). -/
def execTwi (trapOn : BitVec 5) (rA : Reg) (simm : BitVec 16) (s : State) : Out :=
  if trapCondition trapOn (s.reg rA) (simm32 simm) then trapTaken s else done s

/-- A return to `target` with MSR `msr`; enabling translation needs an initialized UTLB (93_implementation_defined.md U37). -/
def returnChecked (target msr : Word) (s : State) : Out :=
  if s.translatesTooEarly msr then .fault .tlbNotInitialized else .next (returnTo target msr s)

/-- `rfi` (R400). -/
def execRfi (s : State) : Out := privileged s (returnChecked s.spr.srr0 s.spr.srr1 s)

/-- `rfci` (R401). -/
def execRfci (s : State) : Out := privileged s (returnChecked s.spr.srr2 s.spr.srr3 s)

end Sys2Proof.Machine
end

