-- ==== Sys2Proof/Machine/TlbOps.lean ====
section
/-! DEFINITION. Machine/TlbOps.lean: the TLB instructions (46_cache_tlb.md R714 to R718). -/

namespace Sys2Proof.Machine

/-- TLBHI[0:27] as the high-order bits of a word, the four low-order bits given (92_eei_decisions.md D18). -/
def TlbEntry.hi (t : TlbEntry) (low : BitVec 4) : Word :=
  t.tag ++ t.size ++ BitVec.ofBool t.valid ++ BitVec.ofBool t.endian ++ BitVec.ofBool t.u0 ++ low

/-- TLBLO. -/
def TlbEntry.lo (t : TlbEntry) : Word :=
  t.rpn ++ BitVec.ofBool t.ex ++ BitVec.ofBool t.wr ++ t.zsel ++ BitVec.ofBool t.w ++ BitVec.ofBool t.i ++
    BitVec.ofBool t.m ++ BitVec.ofBool t.g

/-- An entry with TLBHI[0:27] from a word and TID from PID. -/
def TlbEntry.withHi (t : TlbEntry) (v pid : Word) : TlbEntry :=
  { t with
    tag := bits v 0 22
    size := bits v 22 3
    valid := bit v 25
    endian := bit v 26
    u0 := bit v 27
    tid := bits pid 24 8 }

/-- An entry with TLBLO from a word. -/
def TlbEntry.withLo (t : TlbEntry) (v : Word) : TlbEntry :=
  { t with
    rpn := bits v 0 22
    ex := bit v 22
    wr := bit v 23
    zsel := bits v 24 4
    w := bit v 28
    i := bit v 29
    m := bit v 30
    g := bit v 31 }

/-- The index that a register's low-order six bits name. -/
def State.tlbIndex (s : State) (rA : Reg) : BitVec 6 := (s.reg rA).extractLsb' 0 6

/-- A UTLB entry changed. Until the next context synchronization a translation may still go by the old one (21_translation.md
R240). -/
def State.setTlbEntry (s : State) (i : BitVec 6) (t : TlbEntry) : State :=
  if s.tlbEntry i = t then s
  else
    { s with
      utlb := s.utlb.set i.toNat t i.isLt
      itlbOld := s.itlbOld ++ [{ index := i, entry := s.tlbEntry i }]
      dtlbOld := s.dtlbOld ++ [{ index := i, entry := s.tlbEntry i }] }

/-- The valid entries of the UTLB with their indexes. -/
def State.validEntries (s : State) : List OldEntry :=
  (s.utlb.toList.zipIdx.filter (fun p => p.1.valid)).map (fun p => { index := BitVec.ofNat 6 p.2, entry := p.1 })

/-- `tlbia` (R714). -/
def execTlbia (s : State) : Out :=
  privileged s
    (done { s with
      utlb := mapVec (fun t => { t with valid := false }) s.utlb
      tlbReady := BitVec.allOnes 64
      itlbOld := s.itlbOld ++ s.validEntries
      dtlbOld := s.dtlbOld ++ s.validEntries })

/-- `tlbre` (R715): with WS = 0 the low-order bits of rD are free and PID[24:31] receives the TID. -/
def execTlbre (rD rA : Reg) (ws : BitVec 5) (s : State) : Out :=
  privileged s
    (let t := s.tlbEntry (s.tlbIndex rA)
     if ws = 1#5 then done (s.setReg rD t.lo)
     else if ws = 0#5 then
       let r := drawWord s
       done ((r.2.setReg rD (t.hi (r.1.extractLsb' 0 4))).writeCtx .pid (bits s.spr.pid 0 24 ++ t.tid))
     else .refused .invalidWordSelect)

/-- The indexes of the valid entries that translate an address for a process. -/
def State.tlbMatches (s : State) (pid : BitVec 8) (ea : Word) : List Nat :=
  (s.utlb.toList.zipIdx.filter (fun p => p.1.hits pid ea)).map Prod.snd

/-- CR0 after `tlbsx.`. -/
def State.searchRecord (s : State) (rc found : Bool) : State :=
  if rc then s.setCrField 0#3 (crBits false false found s.so) else s

/-- `tlbsx` (R716): rD is free if no entry matches; several matches are a programming error (U30). -/
def execTlbsx (rD rA rB : Reg) (rc : Bool) (s : State) : Out :=
  privileged s
    (match s.tlbMatches (bits s.spr.pid 24 8) (s.eaX rA rB) with
     | [] =>
       let r := drawWord s
       done ((r.2.setReg rD r.1).searchRecord rc false)
     | [i] => done ((s.setReg rD (BitVec.ofNat 32 i)).searchRecord rc true)
     | _ :: _ :: _ => .fault .multipleSearchHits)

/-- `tlbsync` (R717): a privileged no-operation. -/
def execTlbsync (s : State) : Out := privileged s (done s)

/-- A UTLB entry written by software: a valid one with I = 0 needs both caches invalidated since reset (U32). -/
def putTlbEntry (i : BitVec 6) (t : TlbEntry) (s : State) : Out :=
  if s.cachesTooEarly t then .fault .cacheNotInvalidated else done (s.setTlbEntry i t)

/-- The state with an entry marked as written since reset (U37). -/
def State.markTlb (s : State) (i : BitVec 6) : State := { s with tlbReady := s.tlbReady ||| 1#64 <<< i.toNat }

/-- `tlbwe` (R718). -/
def execTlbwe (rS rA : Reg) (ws : BitVec 5) (s : State) : Out :=
  privileged s
    (let i := s.tlbIndex rA
     let t := s.tlbEntry i
     if ws = 1#5 then putTlbEntry i (t.withLo (s.reg rS)) s
     else if ws = 0#5 then putTlbEntry i (t.withHi (s.reg rS) s.spr.pid) (s.markTlb i)
     else .refused .invalidWordSelect)

end Sys2Proof.Machine
end

