-- ==== Sys2Proof/Machine/Dispatch.lean ====
section
/-! DEFINITION. Machine/Dispatch.lean: the meaning of each instruction, one arm per constructor. -/

namespace Sys2Proof.Machine

/-- The effect of an instruction at the pc. -/
def exec (i : Instr) (s : State) : Host.Outcome State Fault Refusal :=
  match i with
  | .add rD rA rB oe rc => Sys2Proof.Machine.execAdd rD rA rB oe rc s
  | .addc rD rA rB oe rc => Sys2Proof.Machine.execAddc rD rA rB oe rc s
  | .adde rD rA rB oe rc => Sys2Proof.Machine.execAdde rD rA rB oe rc s
  | .addi rD rA simm => Sys2Proof.Machine.execAddi rD rA simm s
  | .addic rD rA simm => Sys2Proof.Machine.execAddic rD rA simm s
  | .addicDot rD rA simm => Sys2Proof.Machine.execAddicDot rD rA simm s
  | .addis rD rA simm => Sys2Proof.Machine.execAddis rD rA simm s
  | .addme rD rA oe rc => Sys2Proof.Machine.execAddme rD rA oe rc s
  | .addze rD rA oe rc => Sys2Proof.Machine.execAddze rD rA oe rc s
  | .and rA rS rB rc => Sys2Proof.Machine.execAnd rA rS rB rc s
  | .andc rA rS rB rc => Sys2Proof.Machine.execAndc rA rS rB rc s
  | .andiDot rA rS uimm => Sys2Proof.Machine.execAndiDot rA rS uimm s
  | .andisDot rA rS uimm => Sys2Proof.Machine.execAndisDot rA rS uimm s
  | .b li aa lk => Sys2Proof.Machine.execB li aa lk s
  | .bc bo bi bd aa lk => Sys2Proof.Machine.execBc bo bi bd aa lk s
  | .bcctr bo bi lk => Sys2Proof.Machine.execBcctr bo bi lk s
  | .bclr bo bi lk => Sys2Proof.Machine.execBclr bo bi lk s
  | .cmp crfD rA rB => Sys2Proof.Machine.execCmp crfD rA rB s
  | .cmpi crfD rA simm => Sys2Proof.Machine.execCmpi crfD rA simm s
  | .cmpl crfD rA rB => Sys2Proof.Machine.execCmpl crfD rA rB s
  | .cmpli crfD rA uimm => Sys2Proof.Machine.execCmpli crfD rA uimm s
  | .cntlzw rA rS rc => Sys2Proof.Machine.execCntlzw rA rS rc s
  | .crand crbD crbA crbB => Sys2Proof.Machine.execCrand crbD crbA crbB s
  | .crandc crbD crbA crbB => Sys2Proof.Machine.execCrandc crbD crbA crbB s
  | .creqv crbD crbA crbB => Sys2Proof.Machine.execCreqv crbD crbA crbB s
  | .crnand crbD crbA crbB => Sys2Proof.Machine.execCrnand crbD crbA crbB s
  | .crnor crbD crbA crbB => Sys2Proof.Machine.execCrnor crbD crbA crbB s
  | .cror crbD crbA crbB => Sys2Proof.Machine.execCror crbD crbA crbB s
  | .crorc crbD crbA crbB => Sys2Proof.Machine.execCrorc crbD crbA crbB s
  | .crxor crbD crbA crbB => Sys2Proof.Machine.execCrxor crbD crbA crbB s
  | .dcba rA rB => Sys2Proof.Machine.execDcba rA rB s
  | .dcbf rA rB => Sys2Proof.Machine.execDcbf rA rB s
  | .dcbi rA rB => Sys2Proof.Machine.execDcbi rA rB s
  | .dcbst rA rB => Sys2Proof.Machine.execDcbst rA rB s
  | .dcbt rA rB => Sys2Proof.Machine.execDcbt rA rB s
  | .dcbtst rA rB => Sys2Proof.Machine.execDcbtst rA rB s
  | .dcbz rA rB => Sys2Proof.Machine.execDcbz rA rB s
  | .dccci rA rB => Sys2Proof.Machine.execDccci rA rB s
  | .dcread rD rA rB => Sys2Proof.Machine.execDcread rD rA rB s
  | .divw rD rA rB oe rc => Sys2Proof.Machine.execDivw rD rA rB oe rc s
  | .divwu rD rA rB oe rc => Sys2Proof.Machine.execDivwu rD rA rB oe rc s
  | .eieio => Sys2Proof.Machine.execEieio s
  | .eqv rA rS rB rc => Sys2Proof.Machine.execEqv rA rS rB rc s
  | .extsb rA rS rc => Sys2Proof.Machine.execExtsb rA rS rc s
  | .extsh rA rS rc => Sys2Proof.Machine.execExtsh rA rS rc s
  | .icbi rA rB => Sys2Proof.Machine.execIcbi rA rB s
  | .icbt rA rB => Sys2Proof.Machine.execIcbt rA rB s
  | .iccci rA rB => Sys2Proof.Machine.execIccci rA rB s
  | .icread rA rB => Sys2Proof.Machine.execIcread rA rB s
  | .isync => Sys2Proof.Machine.execIsync s
  | .lbz rD rA d => Sys2Proof.Machine.execLbz rD rA d s
  | .lbzu rD rA d => Sys2Proof.Machine.execLbzu rD rA d s
  | .lbzux rD rA rB => Sys2Proof.Machine.execLbzux rD rA rB s
  | .lbzx rD rA rB => Sys2Proof.Machine.execLbzx rD rA rB s
  | .lha rD rA d => Sys2Proof.Machine.execLha rD rA d s
  | .lhau rD rA d => Sys2Proof.Machine.execLhau rD rA d s
  | .lhaux rD rA rB => Sys2Proof.Machine.execLhaux rD rA rB s
  | .lhax rD rA rB => Sys2Proof.Machine.execLhax rD rA rB s
  | .lhbrx rD rA rB => Sys2Proof.Machine.execLhbrx rD rA rB s
  | .lhz rD rA d => Sys2Proof.Machine.execLhz rD rA d s
  | .lhzu rD rA d => Sys2Proof.Machine.execLhzu rD rA d s
  | .lhzux rD rA rB => Sys2Proof.Machine.execLhzux rD rA rB s
  | .lhzx rD rA rB => Sys2Proof.Machine.execLhzx rD rA rB s
  | .lmw rD rA d => Sys2Proof.Machine.execLmw rD rA d s
  | .lswi rD rA nb => Sys2Proof.Machine.execLswi rD rA nb s
  | .lswx rD rA rB => Sys2Proof.Machine.execLswx rD rA rB s
  | .lwarx rD rA rB => Sys2Proof.Machine.execLwarx rD rA rB s
  | .lwbrx rD rA rB => Sys2Proof.Machine.execLwbrx rD rA rB s
  | .lwz rD rA d => Sys2Proof.Machine.execLwz rD rA d s
  | .lwzu rD rA d => Sys2Proof.Machine.execLwzu rD rA d s
  | .lwzux rD rA rB => Sys2Proof.Machine.execLwzux rD rA rB s
  | .lwzx rD rA rB => Sys2Proof.Machine.execLwzx rD rA rB s
  | .macchw rD rA rB oe rc => Sys2Proof.Machine.execMacchw rD rA rB oe rc s
  | .macchws rD rA rB oe rc => Sys2Proof.Machine.execMacchws rD rA rB oe rc s
  | .macchwsu rD rA rB oe rc => Sys2Proof.Machine.execMacchwsu rD rA rB oe rc s
  | .macchwu rD rA rB oe rc => Sys2Proof.Machine.execMacchwu rD rA rB oe rc s
  | .machhw rD rA rB oe rc => Sys2Proof.Machine.execMachhw rD rA rB oe rc s
  | .machhws rD rA rB oe rc => Sys2Proof.Machine.execMachhws rD rA rB oe rc s
  | .machhwsu rD rA rB oe rc => Sys2Proof.Machine.execMachhwsu rD rA rB oe rc s
  | .machhwu rD rA rB oe rc => Sys2Proof.Machine.execMachhwu rD rA rB oe rc s
  | .maclhw rD rA rB oe rc => Sys2Proof.Machine.execMaclhw rD rA rB oe rc s
  | .maclhws rD rA rB oe rc => Sys2Proof.Machine.execMaclhws rD rA rB oe rc s
  | .maclhwsu rD rA rB oe rc => Sys2Proof.Machine.execMaclhwsu rD rA rB oe rc s
  | .maclhwu rD rA rB oe rc => Sys2Proof.Machine.execMaclhwu rD rA rB oe rc s
  | .mcrf crfD crfS => Sys2Proof.Machine.execMcrf crfD crfS s
  | .mcrxr crfD => Sys2Proof.Machine.execMcrxr crfD s
  | .mfcr rD => Sys2Proof.Machine.execMfcr rD s
  | .mfdcr rD dcrn => Sys2Proof.Machine.execMfdcr rD dcrn s
  | .mfmsr rD => Sys2Proof.Machine.execMfmsr rD s
  | .mfspr rD sprn => Sys2Proof.Machine.execMfspr rD sprn s
  | .mftb rD tbrn => Sys2Proof.Machine.execMftb rD tbrn s
  | .mtcrf crm rS => Sys2Proof.Machine.execMtcrf crm rS s
  | .mtdcr dcrn rS => Sys2Proof.Machine.execMtdcr dcrn rS s
  | .mtmsr rS => Sys2Proof.Machine.execMtmsr rS s
  | .mtspr sprn rS => Sys2Proof.Machine.execMtspr sprn rS s
  | .mulchw rD rA rB rc => Sys2Proof.Machine.execMulchw rD rA rB rc s
  | .mulchwu rD rA rB rc => Sys2Proof.Machine.execMulchwu rD rA rB rc s
  | .mulhhw rD rA rB rc => Sys2Proof.Machine.execMulhhw rD rA rB rc s
  | .mulhhwu rD rA rB rc => Sys2Proof.Machine.execMulhhwu rD rA rB rc s
  | .mulhw rD rA rB rc => Sys2Proof.Machine.execMulhw rD rA rB rc s
  | .mulhwu rD rA rB rc => Sys2Proof.Machine.execMulhwu rD rA rB rc s
  | .mullhw rD rA rB rc => Sys2Proof.Machine.execMullhw rD rA rB rc s
  | .mullhwu rD rA rB rc => Sys2Proof.Machine.execMullhwu rD rA rB rc s
  | .mulli rD rA simm => Sys2Proof.Machine.execMulli rD rA simm s
  | .mullw rD rA rB oe rc => Sys2Proof.Machine.execMullw rD rA rB oe rc s
  | .nand rA rS rB rc => Sys2Proof.Machine.execNand rA rS rB rc s
  | .neg rD rA oe rc => Sys2Proof.Machine.execNeg rD rA oe rc s
  | .nmacchw rD rA rB oe rc => Sys2Proof.Machine.execNmacchw rD rA rB oe rc s
  | .nmacchws rD rA rB oe rc => Sys2Proof.Machine.execNmacchws rD rA rB oe rc s
  | .nmachhw rD rA rB oe rc => Sys2Proof.Machine.execNmachhw rD rA rB oe rc s
  | .nmachhws rD rA rB oe rc => Sys2Proof.Machine.execNmachhws rD rA rB oe rc s
  | .nmaclhw rD rA rB oe rc => Sys2Proof.Machine.execNmaclhw rD rA rB oe rc s
  | .nmaclhws rD rA rB oe rc => Sys2Proof.Machine.execNmaclhws rD rA rB oe rc s
  | .nor rA rS rB rc => Sys2Proof.Machine.execNor rA rS rB rc s
  | .or rA rS rB rc => Sys2Proof.Machine.execOr rA rS rB rc s
  | .orc rA rS rB rc => Sys2Proof.Machine.execOrc rA rS rB rc s
  | .ori rA rS uimm => Sys2Proof.Machine.execOri rA rS uimm s
  | .oris rA rS uimm => Sys2Proof.Machine.execOris rA rS uimm s
  | .rfci => Sys2Proof.Machine.execRfci s
  | .rfi => Sys2Proof.Machine.execRfi s
  | .rlwimi rA rS sh mb me rc => Sys2Proof.Machine.execRlwimi rA rS sh mb me rc s
  | .rlwinm rA rS sh mb me rc => Sys2Proof.Machine.execRlwinm rA rS sh mb me rc s
  | .rlwnm rA rS rB mb me rc => Sys2Proof.Machine.execRlwnm rA rS rB mb me rc s
  | .sc => Sys2Proof.Machine.execSc s
  | .slw rA rS rB rc => Sys2Proof.Machine.execSlw rA rS rB rc s
  | .sraw rA rS rB rc => Sys2Proof.Machine.execSraw rA rS rB rc s
  | .srawi rA rS sh rc => Sys2Proof.Machine.execSrawi rA rS sh rc s
  | .srw rA rS rB rc => Sys2Proof.Machine.execSrw rA rS rB rc s
  | .stb rS rA d => Sys2Proof.Machine.execStb rS rA d s
  | .stbu rS rA d => Sys2Proof.Machine.execStbu rS rA d s
  | .stbux rS rA rB => Sys2Proof.Machine.execStbux rS rA rB s
  | .stbx rS rA rB => Sys2Proof.Machine.execStbx rS rA rB s
  | .sth rS rA d => Sys2Proof.Machine.execSth rS rA d s
  | .sthbrx rS rA rB => Sys2Proof.Machine.execSthbrx rS rA rB s
  | .sthu rS rA d => Sys2Proof.Machine.execSthu rS rA d s
  | .sthux rS rA rB => Sys2Proof.Machine.execSthux rS rA rB s
  | .sthx rS rA rB => Sys2Proof.Machine.execSthx rS rA rB s
  | .stmw rS rA d => Sys2Proof.Machine.execStmw rS rA d s
  | .stswi rS rA nb => Sys2Proof.Machine.execStswi rS rA nb s
  | .stswx rS rA rB => Sys2Proof.Machine.execStswx rS rA rB s
  | .stw rS rA d => Sys2Proof.Machine.execStw rS rA d s
  | .stwbrx rS rA rB => Sys2Proof.Machine.execStwbrx rS rA rB s
  | .stwcx rS rA rB => Sys2Proof.Machine.execStwcx rS rA rB s
  | .stwu rS rA d => Sys2Proof.Machine.execStwu rS rA d s
  | .stwux rS rA rB => Sys2Proof.Machine.execStwux rS rA rB s
  | .stwx rS rA rB => Sys2Proof.Machine.execStwx rS rA rB s
  | .subf rD rA rB oe rc => Sys2Proof.Machine.execSubf rD rA rB oe rc s
  | .subfc rD rA rB oe rc => Sys2Proof.Machine.execSubfc rD rA rB oe rc s
  | .subfe rD rA rB oe rc => Sys2Proof.Machine.execSubfe rD rA rB oe rc s
  | .subfic rD rA simm => Sys2Proof.Machine.execSubfic rD rA simm s
  | .subfme rD rA oe rc => Sys2Proof.Machine.execSubfme rD rA oe rc s
  | .subfze rD rA oe rc => Sys2Proof.Machine.execSubfze rD rA oe rc s
  | .sync => Sys2Proof.Machine.execSync s
  | .tlbia => Sys2Proof.Machine.execTlbia s
  | .tlbre rD rA ws => Sys2Proof.Machine.execTlbre rD rA ws s
  | .tlbsx rD rA rB rc => Sys2Proof.Machine.execTlbsx rD rA rB rc s
  | .tlbsync => Sys2Proof.Machine.execTlbsync s
  | .tlbwe rS rA ws => Sys2Proof.Machine.execTlbwe rS rA ws s
  | .tw trapOn rA rB => Sys2Proof.Machine.execTw trapOn rA rB s
  | .twi trapOn rA simm => Sys2Proof.Machine.execTwi trapOn rA simm s
  | .wrtee rS => Sys2Proof.Machine.execWrtee rS s
  | .wrteei e => Sys2Proof.Machine.execWrteei e s
  | .xor rA rS rB rc => Sys2Proof.Machine.execXor rA rS rB rc s
  | .xori rA rS uimm => Sys2Proof.Machine.execXori rA rS uimm s
  | .xoris rA rS uimm => Sys2Proof.Machine.execXoris rA rS uimm s

end Sys2Proof.Machine
end

