-- ==== Sys2Proof/Machine/Prefetch.lean ====
section
/-! DEFINITION. Machine/Prefetch.lean: what the instruction-cache unit fetches ahead of execution (00_scope.md R7 agent 3,
20_memory.md R171, R194, R195): a path that starts at the pc, along which cached lines are read and cacheable lines filled although the
program may never execute them. What a fetch ahead makes a program see of old words is in Machine/Cache.lean. -/

namespace Sys2Proof.Machine

/-- CCR0[PFC] and CCR0[PFNC] in force (10_state.md R108). -/
def State.pfc (s : State) : Bool := bit (s.inForce .ccr0) 20
/-- CCR0[PFNC]. -/
def State.pfnc (s : State) : Bool := bit (s.inForce .ccr0) 21

/-- Where a path of fetches ahead has come to. -/
structure Ahead where
  /-- The address fetched next. -/
  ea : Word
  /-- The address of the instruction before it on the path. -/
  prev : Word
  /-- The path has not left the pc. -/
  atPc : Bool
  /-- The sequential-execution model requires the address, as far as the path tells (20_memory.md R194). -/
  sure : Bool
  /-- An instruction on the path before writes LR, CTR, CCR0. -/
  lr : Bool
  ctr : Bool
  ccr0 : Bool
  deriving DecidableEq, Repr

/-- The path of no instruction, at an address. -/
def Ahead.start (pc : Word) : Ahead :=
  { ea := pc, prev := pc, atPc := true, sure := true, lr := false, ctr := false, ccr0 := false }

/-- Whether an instruction writes LR (R195: no predicted path through `blr` until it has). -/
def writesLr : Instr → Bool
  | .b _ _ lk => lk
  | .bc _ _ _ _ lk => lk
  | .bclr _ _ lk => lk
  | .bcctr _ _ lk => lk
  | .mtspr sprn _ => sprn == 8#10
  | _ => false

/-- Whether an instruction writes CTR (R195: no predicted path through `bctr` until it has). -/
def writesCtr : Instr → Bool
  | .bc bo _ _ _ _ => !bo.getLsbD 2
  | .bclr bo _ _ => !bo.getLsbD 2
  | .bcctr bo _ _ => !bo.getLsbD 2
  | .mtspr sprn _ => sprn == 9#10
  | _ => false

/-- Whether an instruction writes CCR0. -/
def writesCcr0 : Instr → Bool
  | .mtspr sprn _ => sprn == 947#10
  | _ => false

/-- BO says to branch always, 1z1zz (40_branch_cr_system.md R381). -/
def branchesAlways (bo : BitVec 5) : Bool := bo.getLsbD 4 && bo.getLsbD 2

/-- Where a branch leads a path, with whether that is required: an unconditional one only to its target, a break in program flow
(R195), a conditional one freely either way; to no target that LR or CTR does not hold yet (`pending`). The outcome of a conditional
branch is known for the instruction at the pc only. -/
def aheadBranch (bo bi : BitVec 5) (pending : Bool) (target : Word) (a : Ahead) (s : State) : Option (Word × Bool) × State :=
  let taken (sure : Bool) : Option (Word × Bool) := if pending then none else some (target, sure)
  if branchesAlways bo then (taken a.sure, s)
  else
    let r := drawBool s
    let sure := a.sure && a.atPc && r.1 == s.branchTakes bo bi
    (if r.1 then taken sure else some (a.ea + 4#32, sure), r.2)

/-- How an instruction on a path directs what is fetched after it. -/
inductive Flow where
  /-- Nothing is fetched ahead. -/
  | stop
  /-- The next word, which the sequential-execution model does not require. -/
  | past
  /-- The next word. -/
  | next
  /-- A branch: BO, BI, whether its target is not known yet, and the target. -/
  | branch (bo bi : BitVec 5) (pending : Bool) (target : Word)
  deriving DecidableEq, Repr

/-- Nothing is fetched ahead after `tw` and `twi`; `sc`, `rfi`, `rfci` and a word that is no instruction are passed, although these do
not lead to the next word (R195). -/
def flowAfter (i : Decoded) (a : Ahead) (s : State) : Flow :=
  match i with
  | .ok (.tw _ _ _) => .stop
  | .ok (.twi _ _ _) => .stop
  | .ok (.b li aa _) => .branch 20#5 0#5 false (branchTarget aa (liDisp li) a.ea)
  | .ok (.bc bo bi bd aa _) => .branch bo bi false (branchTarget aa (bdDisp bd) a.ea)
  | .ok (.bclr bo bi _) => .branch bo bi a.lr (wordAlign s.lr)
  | .ok (.bcctr bo bi _) => .branch bo bi a.ctr (wordAlign s.ctr)
  | .ok .sc => .past
  | .ok .rfi => .past
  | .ok .rfci => .past
  | .ok _ => .next
  | .illegal => .past
  | .reservedBits => .past

/-- Where a path goes after an instruction, with whether that is required (R194). -/
def aheadTarget (f : Flow) (a : Ahead) (s : State) : Option (Word × Bool) × State :=
  match f with
  | .stop => (none, s)
  | .past => (some (a.ea + 4#32, false), s)
  | .next => (some (a.ea + 4#32, a.sure), s)
  | .branch bo bi pending target => aheadBranch bo bi pending target a s

/-- The path after an instruction on it. -/
def Ahead.step (w : Word) (a : Ahead) (s : State) : Option Ahead × State :=
  let i := decode w
  let writes (f : Instr → Bool) : Bool := match i with | .ok j => f j | .illegal => false | .reservedBits => false
  match aheadTarget (flowAfter i a s) a s with
  | (none, t) => (none, t)
  | (some (ea, sure), t) =>
    (some { ea := ea, prev := a.ea, atPc := false, sure := sure, lr := a.lr || writes writesLr, ctr := a.ctr || writes writesCtr
            ccr0 := a.ccr0 || writes writesCcr0 }, t)

/-- A programming error in the translation of a fetch ahead, or of the instruction at the start of its path, stops the step: several
matching entries (21_translation.md R225). DESIGN CHOICE: what a processor does with an entry whose unused RPN bits
are not 0 (R226), or whose page of on-chip memory does not have RPN = EPN (R238), is not stated, for a fetch ahead as for any other
access; the model stops on it there too (log entries 16 and 29, safe). -/
def aheadStops (f : Fault) (s : State) : State := { s with aheadFault := some f }

/-- Translation of a fetch ahead: where it goes, and whether an execution there would be permitted. No exception is taken (R145). A
page without access is not fetched ahead, one that is guarded or no-execute only from the cache (R194(c)). A programming error in the
translation stops the step (`aheadStops`). -/
def aheadCheck (ea : Word) (s : State) : Option (Xlat × Bool) × State :=
  let ocm := ocmHolds s.env.instrOcm ea
  if s.ir then
    match s.searchTlb s.itlbOld ea with
    | (.hit p, t) =>
      if s.noAccess p then (none, t)
      else
        match usePage ocm p ea none t with
        | .ok x u => (some (x, (s.fetchPermission p).isNone), u)
        | .exc _ u => (none, u)
        | .fault f => (none, aheadStops f t)
    | (.miss, t) => (none, t)
    | (.multiple, t) => (none, aheadStops .multipleTlbHits t)
  else (some (placed ocm ea ea (s.realFetchAttr ea), true), s)

/-- An address of guarded storage that may be fetched ahead all the same: in real mode one that is required and lies in the same or
the next 1 KB page as the instruction before it (R194(b)). -/
def State.guardedAhead (s : State) (a : Ahead) : Bool :=
  let page := a.ea.extractLsb' 10 22
  let before := a.prev.extractLsb' 10 22
  !s.ir && a.sure && !a.atPc && (page == before || page == before + 1#22)

/-- The instruction word in way `w` of the class that `ea` names, read: the line is marked recently used (R161). -/
def readAhead (ea : Word) (w : Way) (s : State) : Word × State :=
  let c := s.iClass (classIndex ea)
  (lineWord (c.line w).data (lineOffset ea / 4), s.setIClass (classIndex ea) (c.touch w))

/-- What a fetch ahead costs of the ten units of a path, which are five cacheable or two non-cacheable instructions (R171); none where
it is off. CCR0[PFC] turns it on for cacheable and CCR0[PFNC] for non-cacheable storage (10_state.md R108), each without the other.
DESIGN CHOICE (log entry 8): which of the two turns on a fetch ahead that misses in cacheable storage with CCR0[FWOA] = 1, and one from
on-chip memory, is not stated; either does, and the fetch counts as a cacheable one, which allows the longer path. -/
def State.aheadCost (s : State) (x : Xlat) (hit : Bool) : Option Nat :=
  if x.ocm then if s.pfc || s.pfnc then some 2 else none
  else if x.attr.i then if s.pfnc then some 5 else none
  else if hit || !s.fwoa then if s.pfc then some 2 else none
  else if s.pfc || s.pfnc then some 2 else none

/-- The word that a fetch ahead reads. A cached line is read. Else the bus is used, for a word from non-cacheable storage or with
CCR0[FWOA] = 1, and for a line fill otherwise; not in guarded storage (R154, R194), not where execution is not permitted, not after a
write of CCR0 whose Sequence 1 has not ended (70_reset_and_hazards.md R950). A word for which the bus answers with an error is not read,
and the path ends. Whether a fetch ahead of an address that is marked caching-inhibited while its line is in the cache is the
programming error of R152 (U31) is not stated: here the line is read, and the path goes on, without a fault (DESIGN CHOICE, unsafe, log
entry 16). -/
def aheadRead (x : Xlat) (permitted : Bool) (a : Ahead) (s : State) : Option Word × State :=
  let barred := !permitted || (x.attr.g && !s.guardedAhead a)
  if x.ocm then (if barred then none else some (endianWord x.attr.e (s.instrOcm.readWord (wordAlign x.ra))), s)
  else if s.wordError x.ra then (none, s)
  else
    match s.iHit a.ea x.ra with
    | some w =>
      let r := readAhead a.ea w s
      (some r.1, r.2)
    | none =>
      if barred || a.ccr0 || s.ccr0Open then (none, s)
      else if x.attr.i || s.fwoa then
        let r := memWord (wordAlign x.ra) { s with busFetch := true }
        (some (endianWord x.attr.e r.1), r.2)
      else
        let t := iFill a.ea x.ra x.attr.e { s with busFetch := true }
        match t.iHit a.ea x.ra with
        | some w =>
          let r := readAhead a.ea w t
          (some r.1, r.2)
        | none => (none, t)

/-- A fetch ahead where `units` are left: the word with the units left after it; nothing where it is off or they do not suffice. -/
def aheadFetch (x : Xlat) (permitted : Bool) (units : Nat) (a : Ahead) (s : State) : Option (Word × Nat) × State :=
  match s.aheadCost x (s.iHit a.ea x.ra).isSome with
  | none => (none, s)
  | some cost =>
    if units < cost then (none, s)
    else
      match aheadRead x permitted a s with
      | (none, t) => (none, t)
      | (some w, t) => (some (w, units - cost), t)

/-- Fetching ahead at one address: freely, it takes place. -/
def prefetchAt (units : Nat) (a : Ahead) (s : State) : Option (Word × Nat) × State :=
  let d := drawBool s
  if d.1 then
    match aheadCheck a.ea d.2 with
    | (none, t) => (none, t)
    | (some (x, permitted), t) => aheadFetch x permitted units a t
  else (none, d.2)

/-- Fetching ahead along a path, at most `n` instructions and `units` units long. -/
def prefetchPath : Nat → Nat → Ahead → State → State
  | 0, _, _, s => s
  | n + 1, units, a, s =>
    match prefetchAt units a s with
    | (none, t) => t
    | (some (w, left), t) =>
      match a.step w t with
      | (none, u) => u
      | (some b, u) => prefetchPath n left b u

/-- The word of the instruction at the pc, which the path goes on from: whatever its storage, execution requires it. None where it
cannot be executed. -/
def wordAtPc (s : State) : Option Word × State :=
  match aheadCheck s.pc s with
  | (none, t) => (none, t)
  | (some (x, permitted), t) =>
    if x.ocm then (some (endianWord x.attr.e (t.instrOcm.readWord (wordAlign x.ra))), t)
    else if t.wordError x.ra then (none, t)
    else
      match t.iHit s.pc x.ra with
      | some w => (some (lineWord ((t.iClass (classIndex s.pc)).line w).data (lineOffset s.pc / 4)), t)
      | none =>
        if !permitted then (none, t)
        else
          let r := memWord (wordAlign x.ra) t
          (some (endianWord x.attr.e r.1), r.2)

/-- The instruction-cache unit's part of a step: nothing unless the processor executes instructions and prefetching is on for some
storage (CCR0[PFC], CCR0[PFNC], R171); else a fetch at the pc, which a step may fetch and then not execute, and a path of at most five
instructions after the one at the pc. -/
def prefetch (s : State) : State :=
  if s.run = .running ∧ s.we = false ∧ (s.pfc || s.pfnc) = true then
    let a := Ahead.start s.pc
    match wordAtPc (prefetchAt 10 a s).2 with
    | (none, t) => t
    | (some w, t) =>
      match a.step w t with
      | (none, u) => u
      | (some b, u) => prefetchPath 5 10 b u
  else s

end Sys2Proof.Machine
end

