-- ==== Sys2Proof/Machine/Run.lean ====
section
/-! DEFINITION. Machine/Run.lean: what a step does: the fetch, the instruction, or what is taken in its place (60_exceptions.md R755,
R796, R800). -/

namespace Sys2Proof.Machine

/-- An instruction word decoded and executed: an unimplemented word raises the illegal-instruction exception
(60_exceptions.md R772); a reserved bit that is 1 is refused (U20). -/
def execWord (w : Word) (s : State) : Out :=
  match decode w with
  | .ok i => exec i s
  | .illegal => trapTo .programIllegal s
  | .reservedBits => .refused .reservedBits

/-- An instruction whose fetch gave the state `s`: it is executed unless it raises nothing while an external, FIT or PIT request
is enabled, which is then taken in its place (R755 priorities 16 to 18, R800 step 7), also in the place of an instruction that would
reset the processor or stop the machine; after it ends normally, its completion events, under MSR[DE] as it was before it (R879). -/
def runWord (w : Word) (s : State) : Out :=
  match execWord w s with
  | .next t =>
    if t.retire = .excepted then .next t
    else orLowRequest s (.next (if t.retire = .completed then completionEvents s.de t else t))
  | .fault f => if f.inTranslation then .fault f else orLowRequest s (.fault f)
  | .refused r => orLowRequest s (.refused r)

/-- What follows a fetch, when no request of higher priority is taken. A fetch that met a bus error with MSR[ME] = 0 sets
ESR[MCI], and a free word is executed (60_exceptions.md R766, U10). The spec does not say whether ESR[MCI] and MCSR are set where a
request is taken in place of that instruction: here they are set where an external, FIT or PIT request is, and not where one of
priority 4 to 6 is (DESIGN CHOICE, unsafe, log entry 15). -/
def runFetched (f : Fetched) : Out :=
  match f with
  | .word w t => runWord w t
  | .exc e t => trapTo e t
  | .busError t => runWord (drawWord (instrErrorMasked t)).1 (drawWord (instrErrorMasked t)).2
  | .fault g => .fault g

/-- An instruction at the pc, or what is taken in its place: an instruction machine check (priority 3), a request of priority 4
to 6, else the instruction (R755). -/
def runInstr (s : State) : Out :=
  match instrMachineCheck (fetch s.pc s) with
  | some t => .next t
  | none =>
    match urgentRequest s with
    | .halted t => .next t
    | .goOn t => runFetched (fetch t.pc t)

/-- A step of a running processor: the error of a fetch ahead (21_translation.md R225), a data machine check (priority 1), the IAC event
(priority 2), then the instruction. -/
def runStep (s : State) : Out :=
  match s.aheadFault with
  | some f => .fault f
  | none =>
    match dataMachineCheck s with
    | .halted t => .next t
    | .goOn t =>
      match iacCheck t with
      | .halted u => .next u
      | .goOn u => runInstr u

/-- The step after the environment's part, by the run state (10_state.md R130). -/
def stepRunState (s : State) : Out :=
  match s.run with
  | .running => if s.we then .next (waitStep s) else runStep s
  | .stopped => .next s
  | .debugWait => .next (debugWaitStep s)

/-- What `step` acts on: the timers have ticked (R800 step 0, 92_eei_decisions.md D4, log entry 5), the boundary has passed, and the
instruction-cache unit has fetched ahead (00_scope.md R7). -/
def State.begun (s : State) : State :=
  let n := s.env.clock.count s
  prefetch (beginStep (ticks n.1 n.2))

end Sys2Proof.Machine
end

