-- ==== Sys2Proof/Machine/Step.lean ====
section
/-! DEFINITION. Machine/Step.lean: one step of the machine (60_exceptions.md R800). -/

namespace Sys2Proof.Machine

/-- One step (R800). -/
def step (s : State) : Host.Outcome State Fault Refusal := stepRunState s.begun

/-- The state with an instruction word placed where `step` fetches next: the physical word that the pc translates to, in the
byte order of its storage, and any copy of it in the caches; older copies of that word are forgotten (log entry 7). -/
def State.withFetchWord (s : State) (nbits w : Nat) : State := placeWord (tableWord nbits w) s

end Sys2Proof.Machine
end

