-- ==== Sys2Proof/Safety.lean ====
section
/-! DEFINITION. Safety.lean: the terms the statements are written in: what an instruction changes and what it leaves, the calm
states in which it completes, what memory reads as, and the invariant that every step keeps. -/

namespace Sys2Proof.Machine

/-! ### Frames -/

/-- An instruction that only writes registers: of the state, only the general registers, CR, XER and the pc differ, and the pc is
at the next instruction. -/
def OnlyRegisters (s t : State) : Prop :=
  t = { s with gpr := t.gpr, cr := t.cr, xer := t.xer, pc := s.pc + 4#32 }

/-- Every byte of memory reads as before: what the data side of the processor reads, system memory behind it, and on-chip memory. -/
def SameMemory (s t : State) : Prop :=
  ∀ a, t.dataByte a = s.dataByte a ∧ t.mem.read a = s.mem.read a ∧ t.dataOcm.read a = s.dataOcm.read a

/-- No general register changes. -/
def SameRegs (s t : State) : Prop := ∀ q, t.reg q = s.reg q

/-- One general register is written; every other is as before. -/
def WritesReg (r : Reg) (v : Word) (s t : State) : Prop := t.reg r = v ∧ ∀ q, q ≠ r → t.reg q = s.reg q

/-- Two general registers, `r` and then `r'`, are written; every other is as before. -/
def WritesTwo (r : Reg) (v : Word) (r' : Reg) (v' : Word) (s t : State) : Prop :=
  t.reg r' = v' ∧ (r ≠ r' → t.reg r = v) ∧ ∀ q, q ≠ r → q ≠ r' → t.reg q = s.reg q

/-- CR after an instruction that records `res` in CR0 if `rc` (10_state.md R46): the signed comparison of the result with zero
and XER[SO] as it is afterwards; every other bit is as before. -/
def Recorded (rc : Bool) (res : Word) (s t : State) : Prop :=
  ∀ k, k < 32 → bit t.cr k =
    if rc ∧ k = 0 then decide (res.toInt < 0)
    else if rc ∧ k = 1 then decide (0 < res.toInt)
    else if rc ∧ k = 2 then decide (res.toInt = 0)
    else if rc ∧ k = 3 then bit t.xer 0
    else bit s.cr k

/-- CR after field `n` is written with four bits, LT first; every other bit is as before. -/
def WritesField (n : BitVec 3) (lt gt eq so : Bool) (s t : State) : Prop :=
  ∀ k, k < 32 → bit t.cr k =
    if k = 4 * n.toNat then lt
    else if k = 4 * n.toNat + 1 then gt
    else if k = 4 * n.toNat + 2 then eq
    else if k = 4 * n.toNat + 3 then so
    else bit s.cr k

/-- XER after an instruction that writes CA and OV, or neither, or one of them (10_state.md R48, R49): OV also sets SO; every
other bit is as before. -/
def XerAfter (ca ov : Option Bool) (s t : State) : Prop :=
  ∀ k, k < 32 → bit t.xer k =
    if k = 0 then (bit s.xer 0 || ov.getD false)
    else if k = 1 then ov.getD (bit s.xer 1)
    else if k = 2 then ca.getD (bit s.xer 2)
    else bit s.xer k

/-- A value an instruction writes or does not. -/
def written (b v : Bool) : Option Bool := if b then some v else none

/-- An integer lies outside what 32 signed bits hold. -/
def outside32 (n : Int) : Bool := decide (n < -2147483648 ∨ 2147483647 < n)

/-! ### Calm states -/

/-- No debug event stands in the way of an instruction: branch-taken, instruction-complete, exception-taken and trap events are
off (DBCR0), and so are the data compares (DBCR1), in the contents of the registers and as they are in force. -/
structure State.noDebug (s : State) : Prop where
  dbcr0 : s.dbg.dbcr0 = 0#32
  dbcr1 : s.dbg.dbcr1 = 0#32
  now0 : s.debugNow.dbcr0 = 0#32
  now1 : s.debugNow.dbcr1 = 0#32

/-- Every context register is in force as it stands. -/
def State.settled (s : State) : Prop := s.stale = []

/-- Data accesses are in real mode and nothing of the processor's own stands in their way: context registers in force, MSR[DR] = 0,
CCR0[U0XE] = 0, no data compare, the data fill buffer empty, no data bus error waiting. -/
structure State.calmData (s : State) : Prop where
  settled : s.stale = []
  real : bit s.msr 27 = false
  u0 : bit s.spr.ccr0 14 = false
  dbcr1 : s.dbg.dbcr1 = 0#32
  dfb : s.dfb = none
  quiet : s.dataMC = false

/-- Plain storage: `n` bytes from `ea` on are non-cacheable in real mode, not in the data cache, of byte order `little`, memory
answers for them, and they are not on-chip memory. -/
structure State.plain (s : State) (little : Bool) (ea : Word) (n : Nat) : Prop where
  inhibited : ∀ k, k < n → regionBit s.spr.dccr (ea + BitVec.ofNat 32 k) = false
  absent : ∀ k, k < n → s.dHit (ea + BitVec.ofNat 32 k) = none
  order : ∀ k, k < n → regionBit s.spr.sler (ea + BitVec.ofNat 32 k) = little
  answers : ∀ k, k < n → s.memKind (ea + BitVec.ofNat 32 k) = .ram
  offChip : ∀ k, k < n → ocmHolds s.env.dataOcm (ea + BitVec.ofNat 32 k) = false

/-- The blocks that `n` bytes from `ea` on lie in are ordinary memory throughout, where a load without the cache brings in the
whole block (CCR0[LWL] = 1, 20_memory.md R166). -/
def State.blocksAnswer (s : State) (ea : Word) (n : Nat) : Prop :=
  bit s.spr.ccr0 6 = true → ∀ k, k < n → ∀ a, blockOf a = blockOf (ea + BitVec.ofNat 32 k) → s.memKind a = .ram

/-- The aligned words that `n` bytes from `ea` on lie in are ordinary memory throughout: a load of a multiple or a string reads them
whole (70_reset_and_hazards.md R966). -/
def State.wordsAnswer (s : State) (ea : Word) (n : Nat) : Prop :=
  ∀ k, k < n → ∀ a, wordOf a = wordOf (ea + BitVec.ofNat 32 k) → s.memKind a = .ram

/-! ### Memory as an instruction sees it -/

/-- `n` consecutive bytes as the data side reads them, the lowest address first. -/
def State.dataBytes (s : State) (ea : Word) (n : Nat) : List Byte :=
  (List.range n).map fun k => s.dataByte (ea + BitVec.ofNat 32 k)

/-- The number that bytes make, the first the most significant. -/
def bigEndian (bs : List Byte) : Nat := bs.foldl (fun acc b => 256 * acc + b.toNat) 0

/-- The number that `n` bytes of memory at `ea` make in big-endian or little-endian order (20_memory.md R146 to R148). -/
def State.number (s : State) (little : Bool) (ea : Word) (n : Nat) : Nat :=
  bigEndian (if little then (s.dataBytes ea n).reverse else s.dataBytes ea n)

/-- Byte `k` (from the lowest address) of the `n` low-order bytes of `v` in memory. -/
def memByte (little : Bool) (n : Nat) (v : Word) (k : Nat) : Byte :=
  BitVec.ofNat 8 (v.toNat / 256 ^ (if little then k else n - 1 - k))

/-- Memory after `n` bytes from `ea` on are written with the low-order bytes of `v`: every other byte is as before. -/
def Stores (little : Bool) (ea : Word) (n : Nat) (v : Word) (s t : State) : Prop :=
  ∀ a, t.mem.read a =
    if (a - ea).toNat < n then memByte little n v (a - ea).toNat else s.mem.read a

/-! ### The data cache -/

/-- All of memory is ordinary memory, so that no bus access answers with an error. -/
def State.quietBus (s : State) : Prop := s.env.map = []

/-- The two lines of a class of the data cache do not hold the same block. -/
def State.distinctLines (s : State) (i : BitVec 8) : Prop :=
  (s.dClass i).wayA.valid = true → (s.dClass i).wayB.valid = true → (s.dClass i).wayA.tag ≠ (s.dClass i).wayB.tag

/-- A class of the data cache agrees with memory: its lines differ, and a valid line that is not dirty holds what memory holds. -/
def State.coherent (s : State) (i : BitVec 8) : Prop :=
  s.distinctLines i ∧
    ∀ w, ((s.dClass i).line w).valid = true → ((s.dClass i).line w).dirty = false →
      ∀ a, classIndex a = i → dTag a = ((s.dClass i).line w).tag →
        lineByte ((s.dClass i).line w).data (lineOffset a) = s.mem.read a

/-- Real-mode data accesses to an address are cacheable with the write-back policy; on-chip memory is not. -/
def State.writeBackRegion (s : State) (ea : Word) : Prop :=
  regionBit s.spr.dccr ea = true ∧ regionBit s.spr.dcwr ea = false ∧ ocmHolds s.env.dataOcm ea = false

/-! ### The invariants -/

/-- No block is twice in the data cache. -/
def State.linesDistinct (s : State) : Prop := ∀ i, s.distinctLines i

/-- System memory and on-chip memory have their canonical form. -/
def State.memoriesWf (s : State) : Prop := s.mem.wf = true ∧ s.dataOcm.wf = true ∧ s.instrOcm.wf = true

/-- What every step keeps: the canonical form of all memories and an aligned pc (10_state.md R44). -/
def State.inv (s : State) : Prop := s.memoriesWf ∧ s.pc.extractLsb' 0 2 = 0#2

end Sys2Proof.Machine
end

