-- ==== Sys2Proof/Certificates/Slice0/Obligations.lean ====
section
/-! DEFINITION. Certificates/Slice0/Obligations.lean: the statements for the provers. Terms are those of Safety.lean; the further
ones in the namespace Claims stand before the statements that use them. -/

open Sys2Proof Sys2Proof.Machine

/-! ### Integer arithmetic (42_integer_arith.md) -/

namespace Sys2Proof.Claims

/-- An instruction that writes `rD` with the sum of `x`, `y` and the bit `c`, CA with its carry if `ca`, OV with its signed
overflow if `oe`, and records the result if `rc` (R501 to R503). -/
def Sums (i : Instr) (rD : Reg) (x y : Word) (c ca oe rc : Bool) (s : State) : Prop :=
  ∃ t, exec i s = .next t ∧ OnlyRegisters s t ∧ SameMemory s t ∧
    WritesReg rD (BitVec.ofNat 32 (x.toNat + y.toNat + c.toNat)) s t ∧
    XerAfter (written ca (decide (2 ^ 32 ≤ x.toNat + y.toNat + c.toNat)))
      (written oe (outside32 (x.toInt + y.toInt + c.toNat))) s t ∧
    Recorded rc (BitVec.ofNat 32 (x.toNat + y.toNat + c.toNat)) s t

/-- An instruction that writes `rD` with the low 32 bits of the integer `n`, OV with `ov`, and records the result if `rc`. -/
def Computes (i : Instr) (rD : Reg) (n : Int) (ov : Option Bool) (rc : Bool) (s : State) : Prop :=
  ∃ t, exec i s = .next t ∧ OnlyRegisters s t ∧ SameMemory s t ∧ WritesReg rD (BitVec.ofInt 32 n) s t ∧
    XerAfter none ov s t ∧ Recorded rc (BitVec.ofInt 32 n) s t

/-- An invalid division: nothing is said of `rD` and of CR0[LT, GT, EQ]; OV and SO are set if `oe`, CR0[SO] is XER[SO] as it is
afterwards if `rc`; the rest is as before, but for the counter of free values. -/
def DividesInvalid (i : Instr) (rD : Reg) (oe rc : Bool) (s : State) : Prop :=
  ∃ t, exec i s = .next t ∧
    t = { s with gpr := t.gpr, cr := t.cr, xer := t.xer, pc := s.pc + 4#32, draws := t.draws } ∧ SameMemory s t ∧
    (∀ q, q ≠ rD → t.reg q = s.reg q) ∧ XerAfter none (written oe true) s t ∧
    (∀ k, 3 ≤ k → k < 32 → bit t.cr k = if rc ∧ k = 3 then bit t.xer 0 else bit s.cr k) ∧
    (rc = false → t.cr = s.cr)

end Sys2Proof.Claims

/-- `add`, `addc`, `adde`, `addi`, `addic`, `addic.`, `addis`, `addme`, `addze`: the addends of R503, the sum, CA, OV, CR0, and
nothing else. -/
def Obligations.AdditionsWriteTheSumAndFlags : Prop :=
  ∀ (rD rA rB : Reg) (simm : BitVec 16) (oe rc : Bool) (s : State),
    Claims.Sums (.add rD rA rB oe rc) rD (s.reg rA) (s.reg rB) false false oe rc s ∧
    Claims.Sums (.addc rD rA rB oe rc) rD (s.reg rA) (s.reg rB) false true oe rc s ∧
    Claims.Sums (.adde rD rA rB oe rc) rD (s.reg rA) (s.reg rB) (bit s.xer 2) true oe rc s ∧
    Claims.Sums (.addi rD rA simm) rD (if rA = 0#5 then 0#32 else s.reg rA) (simm.signExtend 32) false false false false s ∧
    Claims.Sums (.addic rD rA simm) rD (s.reg rA) (simm.signExtend 32) false true false false s ∧
    Claims.Sums (.addicDot rD rA simm) rD (s.reg rA) (simm.signExtend 32) false true false true s ∧
    Claims.Sums (.addis rD rA simm) rD (if rA = 0#5 then 0#32 else s.reg rA) (simm ++ 0#16) false false false false s ∧
    Claims.Sums (.addme rD rA oe rc) rD (s.reg rA) 0xFFFFFFFF#32 (bit s.xer 2) true oe rc s ∧
    Claims.Sums (.addze rD rA oe rc) rD (s.reg rA) 0#32 (bit s.xer 2) true oe rc s

/-- `subf`, `subfc`, `subfe`, `subfic`, `subfme`, `subfze`, `neg`: sums with the one's complement of rA (R503). -/
def Obligations.SubtractionsWriteTheSumAndFlags : Prop :=
  ∀ (rD rA rB : Reg) (simm : BitVec 16) (oe rc : Bool) (s : State),
    Claims.Sums (.subf rD rA rB oe rc) rD (~~~s.reg rA) (s.reg rB) true false oe rc s ∧
    Claims.Sums (.subfc rD rA rB oe rc) rD (~~~s.reg rA) (s.reg rB) true true oe rc s ∧
    Claims.Sums (.subfe rD rA rB oe rc) rD (~~~s.reg rA) (s.reg rB) (bit s.xer 2) true oe rc s ∧
    Claims.Sums (.subfic rD rA simm) rD (~~~s.reg rA) (simm.signExtend 32) true true false false s ∧
    Claims.Sums (.subfme rD rA oe rc) rD (~~~s.reg rA) 0xFFFFFFFF#32 (bit s.xer 2) true oe rc s ∧
    Claims.Sums (.subfze rD rA oe rc) rD (~~~s.reg rA) 0#32 (bit s.xer 2) true oe rc s ∧
    Claims.Sums (.neg rD rA oe rc) rD (~~~s.reg rA) 0#32 true false oe rc s

/-- `mulhw`, `mulhwu`, `mulli`, `mullw`: the high or the low half of the exact product; OV of `mullw` says that the product does
not fit in 32 signed bits (R502). -/
def Obligations.MultipliesWriteTheProduct : Prop :=
  ∀ (rD rA rB : Reg) (simm : BitVec 16) (oe rc : Bool) (s : State),
    Claims.Computes (.mulhw rD rA rB rc) rD (((s.reg rA).toInt * (s.reg rB).toInt) / 2 ^ 32) none rc s ∧
    Claims.Computes (.mulhwu rD rA rB rc) rD (((s.reg rA).toNat * (s.reg rB).toNat / 2 ^ 32 : Nat)) none rc s ∧
    Claims.Computes (.mulli rD rA simm) rD ((s.reg rA).toInt * simm.toInt) none false s ∧
    Claims.Computes (.mullw rD rA rB oe rc) rD ((s.reg rA).toInt * (s.reg rB).toInt)
      (written oe (outside32 ((s.reg rA).toInt * (s.reg rB).toInt))) rc s

/-- `divw` and `divwu`: a valid division gives the quotient truncated toward zero and OV = 0; an invalid one (R525, R526) leaves
rD and CR0[LT, GT, EQ] free and sets OV. -/
def Obligations.DivisionsWriteTheQuotientOrAFreeValue : Prop :=
  ∀ (rD rA rB : Reg) (oe rc : Bool) (s : State),
    ((s.reg rB).toInt ≠ 0 ∧ ¬ ((s.reg rA).toInt = -2147483648 ∧ (s.reg rB).toInt = -1) →
      Claims.Computes (.divw rD rA rB oe rc) rD (Int.tdiv (s.reg rA).toInt (s.reg rB).toInt) (written oe false) rc s) ∧
    ((s.reg rB).toInt = 0 ∨ ((s.reg rA).toInt = -2147483648 ∧ (s.reg rB).toInt = -1) →
      Claims.DividesInvalid (.divw rD rA rB oe rc) rD oe rc s) ∧
    ((s.reg rB).toNat ≠ 0 →
      Claims.Computes (.divwu rD rA rB oe rc) rD ((s.reg rA).toNat / (s.reg rB).toNat : Nat) (written oe false) rc s) ∧
    ((s.reg rB).toNat = 0 → Claims.DividesInvalid (.divwu rD rA rB oe rc) rD oe rc s)

/-! ### Logical, compare, rotate and shift (43_logical_compare_rotate_shift.md) -/

namespace Sys2Proof.Claims

/-- An instruction that writes `rA` with the word whose bit `k` is `f k`, CA with `ca`, and records the result if `rc`. -/
def WritesBits (i : Instr) (rA : Reg) (f : Nat → Bool) (ca : Option Bool) (rc : Bool) (s : State) : Prop :=
  ∃ t, exec i s = .next t ∧ OnlyRegisters s t ∧ SameMemory s t ∧
    (∀ k, k < 32 → bit (t.reg rA) k = f k) ∧ (∀ q, q ≠ rA → t.reg q = s.reg q) ∧
    XerAfter ca none s t ∧ Recorded rc (t.reg rA) s t

/-- An instruction that writes CR field `n` with a comparison and copies XER[SO] into it; nothing else changes (R570 to R573). -/
def Compares (i : Instr) (n : BitVec 3) (lt gt eq : Bool) (s : State) : Prop :=
  ∃ t, exec i s = .next t ∧ t = { s with cr := t.cr, pc := s.pc + 4#32 } ∧ SameMemory s t ∧
    WritesField n lt gt eq (bit s.xer 0) s t

/-- Bit `k` lies in `MASK(MB, ME)` (R585). -/
def inMask (mb me : BitVec 5) (k : Nat) : Bool :=
  if mb.toNat ≤ me.toNat then decide (mb.toNat ≤ k ∧ k ≤ me.toNat) else decide (mb.toNat ≤ k ∨ k ≤ me.toNat)

end Sys2Proof.Claims

/-- `MASK(MB, ME)` and `ROTL(x, n)` bit by bit. -/
def Obligations.MaskAndRotateFollowR585 : Prop :=
  ∀ (mb me n : BitVec 5) (x : Word) (k : Nat), k < 32 →
    (mb.toNat ≤ me.toNat → bit (mask mb me) k = decide (mb.toNat ≤ k ∧ k ≤ me.toNat)) ∧
    (me.toNat < mb.toNat → bit (mask mb me) k = decide (k ≥ mb.toNat ∨ k ≤ me.toNat)) ∧
    bit (rotl x n) k = bit x ((k + n.toNat) % 32)

/-- The eight logical instructions of two registers and the six of a register and an immediate, bit by bit. -/
def Obligations.LogicalInstructionsActBitByBit : Prop :=
  ∀ (rA rS rB : Reg) (uimm : BitVec 16) (rc : Bool) (s : State),
    let x := s.reg rS
    let y := s.reg rB
    let low (k : Nat) : Bool := decide (16 ≤ k) && uimm.getLsbD (31 - k)
    let high (k : Nat) : Bool := decide (k < 16) && uimm.getLsbD (15 - k)
    Claims.WritesBits (.and rA rS rB rc) rA (fun k => bit x k && bit y k) none rc s ∧
    Claims.WritesBits (.andc rA rS rB rc) rA (fun k => bit x k && !bit y k) none rc s ∧
    Claims.WritesBits (.eqv rA rS rB rc) rA (fun k => bit x k == bit y k) none rc s ∧
    Claims.WritesBits (.nand rA rS rB rc) rA (fun k => !(bit x k && bit y k)) none rc s ∧
    Claims.WritesBits (.nor rA rS rB rc) rA (fun k => !(bit x k || bit y k)) none rc s ∧
    Claims.WritesBits (.or rA rS rB rc) rA (fun k => bit x k || bit y k) none rc s ∧
    Claims.WritesBits (.orc rA rS rB rc) rA (fun k => bit x k || !bit y k) none rc s ∧
    Claims.WritesBits (.xor rA rS rB rc) rA (fun k => bit x k != bit y k) none rc s ∧
    Claims.WritesBits (.andiDot rA rS uimm) rA (fun k => bit x k && low k) none true s ∧
    Claims.WritesBits (.andisDot rA rS uimm) rA (fun k => bit x k && high k) none true s ∧
    Claims.WritesBits (.ori rA rS uimm) rA (fun k => bit x k || low k) none false s ∧
    Claims.WritesBits (.oris rA rS uimm) rA (fun k => bit x k || high k) none false s ∧
    Claims.WritesBits (.xori rA rS uimm) rA (fun k => bit x k != low k) none false s ∧
    Claims.WritesBits (.xoris rA rS uimm) rA (fun k => bit x k != high k) none false s

/-- `extsb` and `extsh` copy the sign bit of the byte or halfword to the left; `cntlzw` writes how many bits stand before the
first 1. -/
def Obligations.ExtendsAndCountsLeadingZeros : Prop :=
  ∀ (rA rS : Reg) (rc : Bool) (s : State),
    let x := s.reg rS
    Claims.WritesBits (.extsb rA rS rc) rA (fun k => if k < 24 then bit x 24 else bit x k) none rc s ∧
    Claims.WritesBits (.extsh rA rS rc) rA (fun k => if k < 16 then bit x 16 else bit x k) none rc s ∧
    ∃ n, n ≤ 32 ∧ (∀ k, k < n → bit x k = false) ∧ (n < 32 → bit x n = true) ∧
      Claims.Computes (.cntlzw rA rS rc) rA n none rc s

/-- `cmp`, `cmpi`, `cmpl`, `cmpli`: the signed or unsigned comparison in CR field crfD, and XER[SO]. -/
def Obligations.ComparesWriteTheirField : Prop :=
  ∀ (crfD : BitVec 3) (rA rB : Reg) (imm : BitVec 16) (s : State),
    let a := s.reg rA
    let b := s.reg rB
    Claims.Compares (.cmp crfD rA rB) crfD (decide (a.toInt < b.toInt)) (decide (b.toInt < a.toInt))
      (decide (a.toInt = b.toInt)) s ∧
    Claims.Compares (.cmpi crfD rA imm) crfD (decide (a.toInt < imm.toInt)) (decide (imm.toInt < a.toInt))
      (decide (a.toInt = imm.toInt)) s ∧
    Claims.Compares (.cmpl crfD rA rB) crfD (decide (a.toNat < b.toNat)) (decide (b.toNat < a.toNat))
      (decide (a.toNat = b.toNat)) s ∧
    Claims.Compares (.cmpli crfD rA imm) crfD (decide (a.toNat < imm.toNat)) (decide (imm.toNat < a.toNat))
      (decide (a.toNat = imm.toNat)) s

/-- `rlwimi`, `rlwinm`, `rlwnm`: the rotated bit where the mask is 1; elsewhere 0, or for `rlwimi` the old bit. -/
def Obligations.RotatesSelectBitsUnderTheMask : Prop :=
  ∀ (rA rS rB : Reg) (sh mb me : BitVec 5) (rc : Bool) (s : State),
    let x := s.reg rS
    Claims.WritesBits (.rlwimi rA rS sh mb me rc) rA
      (fun k => if Claims.inMask mb me k then bit x ((k + sh.toNat) % 32) else bit (s.reg rA) k) none rc s ∧
    Claims.WritesBits (.rlwinm rA rS sh mb me rc) rA
      (fun k => Claims.inMask mb me k && bit x ((k + sh.toNat) % 32)) none rc s ∧
    Claims.WritesBits (.rlwnm rA rS rB mb me rc) rA
      (fun k => Claims.inMask mb me k && bit x ((k + (s.reg rB).toNat % 32) % 32)) none rc s

/-- `slw`, `srw`, `sraw`, `srawi`: a shift by 0 to 63, with zeros or copies of the sign coming in; CA of an algebraic shift says
that the number is negative and loses a 1 bit. (`k - n` is 0 where `k < n`: bit 0, the sign.) -/
def Obligations.ShiftsMoveBitsAndSetCarry : Prop :=
  ∀ (rA rS rB : Reg) (sh : BitVec 5) (rc : Bool) (s : State),
    let x := s.reg rS
    let n := (s.reg rB).toNat % 64
    let lost (m : Nat) : Bool := bit x 0 && (List.range 32).any fun j => decide (32 ≤ j + m) && bit x j
    Claims.WritesBits (.slw rA rS rB rc) rA (fun k => decide (k + n < 32) && bit x (k + n)) none rc s ∧
    Claims.WritesBits (.srw rA rS rB rc) rA (fun k => decide (n ≤ k) && bit x (k - n)) none rc s ∧
    Claims.WritesBits (.sraw rA rS rB rc) rA (fun k => bit x (k - n)) (some (lost n)) rc s ∧
    Claims.WritesBits (.srawi rA rS sh rc) rA (fun k => bit x (k - sh.toNat)) (some (lost sh.toNat)) rc s

/-! ### Multiply-accumulate (44_mac.md) -/

namespace Sys2Proof.Claims

/-- A halfword of a word as an integer: the upper or the lower one, signed or unsigned. -/
def half (upper signed : Bool) (w : Word) : Int :=
  let h : Nat := if upper then w.toNat / 65536 else w.toNat % 65536
  if signed ∧ 32768 ≤ h then (h : Int) - 65536 else h

/-- The integer of a word, signed or unsigned. -/
def value (signed : Bool) (w : Word) : Int := if signed then w.toInt else w.toNat

/-- The ends of the number range of a result, signed or unsigned. -/
def least (signed : Bool) : Int := if signed then -2147483648 else 0
/-- The greatest number of a result. -/
def greatest (signed : Bool) : Int := if signed then 2147483647 else 4294967295

/-- An accumulate instruction: the product of halfwords `p` added to rD, wrapped or saturated to the number range; OV says that
the exact sum lies outside the range (R612, R613; that the o-forms set OV so is the spec's own decision D16, log entry 28). -/
def Accumulates (i : Instr) (rD : Reg) (p : Int) (signed sat oe rc : Bool) (s : State) : Prop :=
  let sum := p + value signed (s.reg rD)
  let res := if sat then max (least signed) (min (greatest signed) sum) else sum
  Computes i rD res (written oe (decide (sum < least signed ∨ greatest signed < sum))) rc s

end Sys2Proof.Claims

/-- The twelve `mac` instructions, the six `nmac` instructions (the product negated), the six multiply-halfword instructions. OV of
the o-forms is not the source's word but the spec's own decision D16, which the model follows (log entry 28). -/
def Obligations.HalfwordMultipliesAndAccumulates : Prop :=
  ∀ (rD rA rB : Reg) (oe rc : Bool) (s : State),
    let p (ua ub signed : Bool) : Int := Claims.half ua signed (s.reg rA) * Claims.half ub signed (s.reg rB)
    let n (ua ub : Bool) : Int := -p ua ub true
    Claims.Accumulates (.macchw rD rA rB oe rc) rD (p false true true) true false oe rc s ∧
    Claims.Accumulates (.macchws rD rA rB oe rc) rD (p false true true) true true oe rc s ∧
    Claims.Accumulates (.macchwu rD rA rB oe rc) rD (p false true false) false false oe rc s ∧
    Claims.Accumulates (.macchwsu rD rA rB oe rc) rD (p false true false) false true oe rc s ∧
    Claims.Accumulates (.machhw rD rA rB oe rc) rD (p true true true) true false oe rc s ∧
    Claims.Accumulates (.machhws rD rA rB oe rc) rD (p true true true) true true oe rc s ∧
    Claims.Accumulates (.machhwu rD rA rB oe rc) rD (p true true false) false false oe rc s ∧
    Claims.Accumulates (.machhwsu rD rA rB oe rc) rD (p true true false) false true oe rc s ∧
    Claims.Accumulates (.maclhw rD rA rB oe rc) rD (p false false true) true false oe rc s ∧
    Claims.Accumulates (.maclhws rD rA rB oe rc) rD (p false false true) true true oe rc s ∧
    Claims.Accumulates (.maclhwu rD rA rB oe rc) rD (p false false false) false false oe rc s ∧
    Claims.Accumulates (.maclhwsu rD rA rB oe rc) rD (p false false false) false true oe rc s ∧
    Claims.Accumulates (.nmacchw rD rA rB oe rc) rD (n false true) true false oe rc s ∧
    Claims.Accumulates (.nmacchws rD rA rB oe rc) rD (n false true) true true oe rc s ∧
    Claims.Accumulates (.nmachhw rD rA rB oe rc) rD (n true true) true false oe rc s ∧
    Claims.Accumulates (.nmachhws rD rA rB oe rc) rD (n true true) true true oe rc s ∧
    Claims.Accumulates (.nmaclhw rD rA rB oe rc) rD (n false false) true false oe rc s ∧
    Claims.Accumulates (.nmaclhws rD rA rB oe rc) rD (n false false) true true oe rc s ∧
    Claims.Computes (.mulchw rD rA rB rc) rD (p false true true) none rc s ∧
    Claims.Computes (.mulchwu rD rA rB rc) rD (p false true false) none rc s ∧
    Claims.Computes (.mulhhw rD rA rB rc) rD (p true true true) none rc s ∧
    Claims.Computes (.mulhhwu rD rA rB rc) rD (p true true false) none rc s ∧
    Claims.Computes (.mullhw rD rA rB rc) rD (p false false true) none rc s ∧
    Claims.Computes (.mullhwu rD rA rB rc) rD (p false false false) none rc s

/-! ### Branches and the condition register (40_branch_cr_system.md) -/

namespace Sys2Proof.Claims

/-- Bit `k` of a BO field, bit 0 the most significant. -/
def boBit (bo : BitVec 5) (k : Nat) : Bool := bo.getLsbD (4 - k)

/-- CTR after the condition of a branch is evaluated (R381). -/
def ctrOf (bo : BitVec 5) (s : State) : Word := if boBit bo 2 then s.ctr else BitVec.ofInt 32 (s.ctr.toNat - 1)

/-- Whether a conditional branch is taken (R381). -/
def taken (bo bi : BitVec 5) (s : State) : Bool :=
  (boBit bo 2 || (decide (ctrOf bo s ≠ 0#32) != boBit bo 3)) && (boBit bo 0 || (bit s.cr bi.toNat == boBit bo 1))

/-- A branch: the pc at the target if it is taken, else at the next instruction; CTR; LR at the next instruction if `lk`; nothing
else, but for what a debug event has made of the state, `u`, if it is taken. -/
def Branches (i : Instr) (taken : Bool) (target ctr : Word) (lk : Bool) (u s : State) : Prop :=
  ∃ t, exec i s = .next t ∧ SameMemory s t ∧
    t = { (if taken then u else s) with
      pc := if taken then target else s.pc + 4#32, ctr := ctr, lr := if lk then s.pc + 4#32 else s.lr }

/-- An instruction that changes CR and moves on. -/
def OnlyCr (s t : State) : Prop := t = { s with cr := t.cr, pc := s.pc + 4#32 } ∧ SameMemory s t

/-- A CR-logical instruction: one bit of CR is written. -/
def WritesCrBit (i : Instr) (d : BitVec 5) (v : Bool) (s : State) : Prop :=
  ∃ t, exec i s = .next t ∧ OnlyCr s t ∧ ∀ k, k < 32 → bit t.cr k = if k = d.toNat then v else bit s.cr k

end Sys2Proof.Claims

/-- `b`, `bc`, `bclr`, `bcctr` where a taken branch meets no branch-taken debug event, or one after which execution goes on: the
condition, the target, CTR and LR. No event: none is enabled in DBCR0 as it is in force (which value that is after an unsynchronized
write is a free choice, log entry 11). With every register in force, an event that is enabled goes on in internal mode with MSR[DE] = 0
and external mode off, where it sets no DBSR bit (R871) and freezes the timers (R878), and with both modes off and MSR[DWE] = 0, where it
is recorded as well. (Elsewhere it stops or interrupts the processor, `DebugEventsFollowTheMode`.) Every BO is included: `bcctr` with
BO[2] = 0, an invalid form whose result is undefined (U23), runs by the model's choice as the rule's text has it (log entry 18). -/
def Obligations.BranchesGoToTheirTargets : Prop :=
  ∀ (bo bi : BitVec 5) (li : BitVec 24) (bd : BitVec 14) (aa lk : Bool) (u s : State),
    let edm := bit s.dbg.dbcr0 0
    let idm := bit s.dbg.dbcr0 1
    let quiet : State := { s with tmr := { s.tmr with frozen := s.tmr.frozen || bit s.dbg.dbcr0 31 } }
    (bit (s.inForce .dbcr0) 5 = false ∧ u = s) ∨
      (s.settled ∧ bit s.dbg.dbcr0 5 = true ∧ edm = false ∧ idm = true ∧ bit s.msr 22 = false ∧ u = quiet) ∨
      (s.settled ∧ bit s.dbg.dbcr0 5 = true ∧ edm = false ∧ idm = false ∧ bit s.msr 21 = false ∧
        u = { quiet with dbg := { s.dbg with dbsr := s.dbg.dbsr ||| oneBit 1 true ||| oneBit 11 (!bit s.msr 22) } }) →
    Claims.Branches (.b li aa lk) true (BitVec.ofInt 32 (4 * li.toInt + if aa then 0 else s.pc.toNat)) s.ctr lk u s ∧
    Claims.Branches (.bc bo bi bd aa lk) (Claims.taken bo bi s)
      (BitVec.ofInt 32 (4 * bd.toInt + if aa then 0 else s.pc.toNat)) (Claims.ctrOf bo s) lk u s ∧
    Claims.Branches (.bclr bo bi lk) (Claims.taken bo bi s) (BitVec.ofNat 32 (s.lr.toNat / 4 * 4)) (Claims.ctrOf bo s) lk u s ∧
    Claims.Branches (.bcctr bo bi lk) (Claims.taken bo bi s) (BitVec.ofNat 32 ((Claims.ctrOf bo s).toNat / 4 * 4))
      (Claims.ctrOf bo s) lk u s

/-- The eight CR-logical instructions and `mcrf`. -/
def Obligations.ConditionRegisterLogic : Prop :=
  ∀ (d a b : BitVec 5) (crfD crfS : BitVec 3) (s : State),
    let x := bit s.cr a.toNat
    let y := bit s.cr b.toNat
    Claims.WritesCrBit (.crand d a b) d (x && y) s ∧
    Claims.WritesCrBit (.crandc d a b) d (x && !y) s ∧
    Claims.WritesCrBit (.creqv d a b) d (x == y) s ∧
    Claims.WritesCrBit (.crnand d a b) d (!(x && y)) s ∧
    Claims.WritesCrBit (.crnor d a b) d (!(x || y)) s ∧
    Claims.WritesCrBit (.cror d a b) d (x || y) s ∧
    Claims.WritesCrBit (.crorc d a b) d (x || !y) s ∧
    Claims.WritesCrBit (.crxor d a b) d (x != y) s ∧
    ∃ t, exec (.mcrf crfD crfS) s = .next t ∧ Claims.OnlyCr s t ∧
      WritesField crfD (bit s.cr (4 * crfS.toNat)) (bit s.cr (4 * crfS.toNat + 1)) (bit s.cr (4 * crfS.toNat + 2))
        (bit s.cr (4 * crfS.toNat + 3)) s t

/-! ### System calls, traps, returns and interrupts (40_branch_cr_system.md, 60_exceptions.md) -/

namespace Sys2Proof.Claims

/-- A noncritical interrupt entered (R760, R761): SRR0 and SRR1, ESR and DEAR, the MSR with CE, ME and DE kept, the pc at the
vector, the context synchronized; nothing else, not even a reservation. -/
def Enters (offset ret esr dear : Word) (s t : State) : Prop :=
  SameMemory s t ∧
  t = { s with
    spr := { s.spr with srr0 := ret, srr1 := s.msr, esr := esr, dear := dear }
    msr := s.msr &&& 0x00021200#32
    pc := (s.spr.evpr &&& 0xFFFF0000#32) ||| offset
    stale := [], itlbOld := [], dtlbOld := [], oldCode := [], oldLines := [], busFetch := false, ccr0Open := false, retire := .excepted }

/-- A critical interrupt entered, likewise with SRR2 and SRR3; `keep` is the mask of MSR bits kept. -/
def EntersCritical (offset ret esr keep : Word) (s t : State) : Prop :=
  SameMemory s t ∧
  t = { s with
    spr := { s.spr with srr2 := ret, srr3 := s.msr, esr := esr }
    msr := s.msr &&& keep
    pc := (s.spr.evpr &&& 0xFFFF0000#32) ||| offset
    stale := [], itlbOld := [], dtlbOld := [], oldCode := [], oldLines := [], busFetch := false, ccr0Open := false, retire := .excepted }

/-- ESR after an interrupt that records its cause in bit `k`: MCI is kept, the rest is 0 (R762). -/
def esrOnly (s : State) (k : Nat) : Word := (s.spr.esr &&& 0x80000000#32) ||| oneBit k true

/-- A new MSR `m` sets IR or DR, which was 0, although an entry of the UTLB was never written since reset (U37). -/
def translatesTooEarly (m : Word) (s : State) : Prop :=
  ((bit m 26 = true ∧ bit s.msr 26 = false) ∨ (bit m 27 = true ∧ bit s.msr 27 = false)) ∧
    ∃ i : BitVec 6, s.tlbReady.getLsbD i.toNat = false

/-- The condition of a trap instruction: TO[0:4] select less, greater, equal, logically less, logically greater (R398). -/
def traps (trapOn : BitVec 5) (a b : Word) : Prop :=
  (a.toInt < b.toInt ∧ boBit trapOn 0 = true) ∨ (b.toInt < a.toInt ∧ boBit trapOn 1 = true) ∨ (a = b ∧ boBit trapOn 2 = true) ∨
    (a.toNat < b.toNat ∧ boBit trapOn 3 = true) ∨ (b.toNat < a.toNat ∧ boBit trapOn 4 = true)

/-- The privileged instructions of R773. -/
def privilegedForms (rD rA rB : Reg) (ws : BitVec 5) (dcrn : BitVec 10) (e rc : Bool) : List Instr :=
  [.dcbi rA rB, .dccci rA rB, .dcread rD rA rB, .iccci rA rB, .icread rA rB, .mfdcr rD dcrn, .mfmsr rD, .mtdcr dcrn rD,
   .mtmsr rD, .rfci, .rfi, .tlbia, .tlbre rD rA ws, .tlbsx rD rA rB rc, .tlbsync, .tlbwe rD rA ws, .wrtee rD, .wrteei e]

end Sys2Proof.Claims

/-- `sc`: the system-call interrupt, with the address after the `sc` in SRR0; ESR and DEAR unchanged. The premise: no debug event is
enabled, in DBCR0 and DBCR1 and in their values in force (log entry 11). -/
def Obligations.SystemCallEntersItsHandler : Prop :=
  ∀ s : State, s.noDebug →
    ∃ t, exec .sc s = .next t ∧
      Claims.Enters 0x0C00#32 (BitVec.ofNat 32 ((s.pc.toNat + 4) / 4 * 4)) s.spr.esr s.spr.dear s t

/-- `tw` and `twi`: the trap program interrupt if the condition holds, else nothing but the next pc. The premise: no debug event is
enabled, in DBCR0 and DBCR1 and in their values in force (log entry 11). -/
def Obligations.TrapInstructionsTrapOnTheirCondition : Prop :=
  ∀ (trapOn : BitVec 5) (rA rB : Reg) (simm : BitVec 16) (s : State), s.noDebug →
    (¬ Claims.traps trapOn (s.reg rA) (s.reg rB) → exec (.tw trapOn rA rB) s = .next { s with pc := s.pc + 4#32 }) ∧
    (Claims.traps trapOn (s.reg rA) (s.reg rB) →
      ∃ t, exec (.tw trapOn rA rB) s = .next t ∧
        Claims.Enters 0x0700#32 (s.pc &&& 0xFFFFFFFC#32) (Claims.esrOnly s 6) s.spr.dear s t) ∧
    (¬ Claims.traps trapOn (s.reg rA) (simm.signExtend 32) →
      exec (.twi trapOn rA simm) s = .next { s with pc := s.pc + 4#32 }) ∧
    (Claims.traps trapOn (s.reg rA) (simm.signExtend 32) →
      ∃ t, exec (.twi trapOn rA simm) s = .next t ∧
        Claims.Enters 0x0700#32 (s.pc &&& 0xFFFFFFFC#32) (Claims.esrOnly s 6) s.spr.dear s t)

/-- `rfi` and `rfci` in privileged mode: the MSR from SRR1 or SRR3, the pc from SRR0 or SRR2 with its two low-order bits cleared
(the spec's decision D14, log entry 28), the context synchronized; nothing else, but for a return into debug-wait: of a processor that
left debug-wait to service an interrupt (`dwLatched`), the first return that restores MSR[DWE] = 1 with DBCR0[EDM] = DBCR0[IDM] = 0
enters debug-wait again, after the same effects. That this return is the one, and that `dwLatched` is then 0, is the model's choice (log
entry 22, DEDUCED from R874). A return that enables translation while a UTLB entry was never written since reset is an error (U37), on
which the model stops (log entry 16). -/
def Obligations.ReturnsRestoreTheMachineState : Prop :=
  ∀ s : State, s.settled → bit s.msr 17 = false →
    let returned (target msr : Word) : State := { s with
      msr := msr, pc := target &&& 0xFFFFFFFC#32, stale := [], itlbOld := [], dtlbOld := [], oldCode := []
      oldLines := [], busFetch := false, ccr0Open := false }
    let waits (msr : Word) : Prop :=
      s.dwLatched = true ∧ bit msr 21 = true ∧ bit s.dbg.dbcr0 0 = false ∧ bit s.dbg.dbcr0 1 = false
    ∀ i target msr, (i = .rfi ∧ target = s.spr.srr0 ∧ msr = s.spr.srr1) ∨ (i = .rfci ∧ target = s.spr.srr2 ∧ msr = s.spr.srr3) →
      (Claims.translatesTooEarly msr s → exec i s = .fault .tlbNotInitialized) ∧
      (¬ Claims.translatesTooEarly msr s → ¬ waits msr → exec i s = .next (returned target msr)) ∧
      (¬ Claims.translatesTooEarly msr s → waits msr →
        exec i s = .next { returned target msr with run := .debugWait, dwLatched := false })

/-- Every privileged instruction in user mode, `mfspr` and `mtspr` of a number with the 0x10 bit included (implemented or not),
takes the privileged-instruction program interrupt and does nothing else. -/
def Obligations.PrivilegedInstructionsTrapInUserMode : Prop :=
  ∀ (rD rA rB : Reg) (ws : BitVec 5) (dcrn sprn : BitVec 10) (e rc : Bool) (i : Instr) (s : State),
    s.settled → bit s.msr 17 = true → s.dbg.dbcr0 = 0#32 →
    i ∈ Claims.privilegedForms rD rA rB ws dcrn e rc ∨
      (sprn.getLsbD 4 = true ∧ (i = .mfspr rD sprn ∨ i = .mtspr sprn rD)) →
    ∃ t, exec i s = .next t ∧
      Claims.Enters 0x0700#32 (s.pc &&& 0xFFFFFFFC#32) (Claims.esrOnly s 5) s.spr.dear s t

/-- What every interrupt saves (R760): a critical one SRR2 and SRR3 and leaves SRR0 and SRR1, a noncritical one the other way
round; the pc goes to EVPR[0:15] followed by the offset; the context is synchronized; nothing but ESR and DEAR changes besides (GPRs,
CR, XER, LR, CTR, the reservation, memory). MSR keeps CE, ME and DE in a noncritical interrupt, ME in a critical one, nothing in a
machine check (R761). Which interrupts are critical: R754. -/
def Obligations.InterruptEntrySavesAndVectors : Prop :=
  ∀ (e : Exc) (ret : Word) (s : State),
    let t := interruptEntry e ret s
    (e.critical = true → t.spr.srr2 = ret &&& 0xFFFFFFFC#32 ∧ t.spr.srr3 = s.msr ∧ t.spr.srr0 = s.spr.srr0 ∧
      t.spr.srr1 = s.spr.srr1) ∧
    (e.critical = false → t.spr.srr0 = ret &&& 0xFFFFFFFC#32 ∧ t.spr.srr1 = s.msr ∧ t.spr.srr2 = s.spr.srr2 ∧
      t.spr.srr3 = s.spr.srr3) ∧
    t.pc = s.spr.evpr.extractLsb' 16 16 ++ e.offset.extractLsb' 0 16 ∧
    t = { s with spr := t.spr, msr := t.msr, pc := t.pc, stale := [], itlbOld := [], dtlbOld := [], oldCode := [],
                 oldLines := [], busFetch := false, ccr0Open := false, retire := .excepted } ∧
    t.spr = { s.spr with srr0 := t.spr.srr0, srr1 := t.spr.srr1, srr2 := t.spr.srr2, srr3 := t.spr.srr3, esr := t.spr.esr,
                         dear := t.spr.dear } ∧
    (e.critical = false → t.msr = s.msr &&& 0x00021200#32) ∧
    (e.critical = true ∧ e ≠ .machineCheckInstr ∧ e ≠ .machineCheckData → t.msr = s.msr &&& 0x00001000#32) ∧
    (e = .machineCheckInstr ∨ e = .machineCheckData → t.msr = 0#32) ∧
    (e.critical = true ↔ e = .criticalInput ∨ e = .machineCheckInstr ∨ e = .machineCheckData ∨ e = .watchdog ∨ e = .debug)

/-- ESR and DEAR after each interrupt (R762, R760 step 4). -/
def Obligations.InterruptsRecordTheirSyndrome : Prop :=
  ∀ (store diz u0f : Bool) (ea ret : Word) (s : State),
    let mci := bit s.spr.esr 0
    let esr (e : Exc) (k : Nat) : Bool := bit (interruptEntry e ret s).spr.esr k
    (∀ k, k < 32 → esr .machineCheckInstr k = decide (k = 0)) ∧
    (∀ k, k < 32 → esr (.dataStorage store diz u0f ea) k =
      if k = 0 then mci else if k = 8 then store else if k = 9 then diz else if k = 16 then u0f else false) ∧
    (∀ k, k < 32 → esr (.instrStorage diz) k = if k = 0 then mci else if k = 9 then diz else false) ∧
    (∀ k, k < 32 → esr .programIllegal k = if k = 0 then mci else decide (k = 4)) ∧
    (∀ k, k < 32 → esr .programPrivileged k = if k = 0 then mci else decide (k = 5)) ∧
    (∀ k, k < 32 → esr .programTrap k = if k = 0 then mci else decide (k = 6)) ∧
    (∀ k, k < 32 → esr (.dataTlbMiss store ea) k = if k = 0 then mci else if k = 8 then store else false) ∧
    (∀ e ∈ [Exc.criticalInput, .machineCheckData, .external, .alignment ea, .systemCall, .pit, .fit, .watchdog, .instrTlbMiss,
        .debug], (interruptEntry e ret s).spr.esr = s.spr.esr) ∧
    (∀ e ∈ [Exc.dataStorage store diz u0f ea, .alignment ea, .dataTlbMiss store ea],
      (interruptEntry e ret s).spr.dear = ea) ∧
    (∀ e ∈ [Exc.criticalInput, .machineCheckInstr, .machineCheckData, .instrStorage diz, .external, .programIllegal,
        .programPrivileged, .programTrap, .systemCall, .pit, .fit, .watchdog, .instrTlbMiss, .debug],
      (interruptEntry e ret s).spr.dear = s.spr.dear)

/-! ### Moves to and from special registers, synchronization (45_processor_control_sync.md) -/

namespace Sys2Proof.Claims

/-- The numbers that `mtspr` simply writes, with the contents they name (10_state.md R135). 285 (TBU) is not for reading. -/
def plainSprs : List (Nat × (State → Word)) :=
  [(1, (·.xer)), (8, (·.lr)), (9, (·.ctr)), (26, (·.spr.srr0)), (27, (·.spr.srr1)), (256, (·.spr.usprg0)),
   (272, (·.spr.sprg0)), (273, (·.spr.sprg1)), (274, (·.spr.sprg2)), (275, (·.spr.sprg3)), (276, (·.spr.sprg4)),
   (277, (·.spr.sprg5)), (278, (·.spr.sprg6)), (279, (·.spr.sprg7)), (285, (·.tmr.tbu)), (944, (·.spr.zpr)),
   (945, (·.spr.pid)), (947, (·.spr.ccr0)), (948, (·.dbg.iac3)), (949, (·.dbg.iac4)), (950, (·.dbg.dvc1)),
   (951, (·.dbg.dvc2)), (953, (·.spr.sgr)), (954, (·.spr.dcwr)), (955, (·.spr.sler)), (956, (·.spr.su0r)),
   (957, (·.dbg.dbcr1)), (980, (·.spr.esr)), (981, (·.spr.dear)), (982, (·.spr.evpr)), (987, (·.tmr.pit)),
   (990, (·.spr.srr2)), (991, (·.spr.srr3)), (1012, (·.dbg.iac1)), (1013, (·.dbg.iac2)), (1014, (·.dbg.dac1)),
   (1015, (·.dbg.dac2)), (1018, (·.spr.dccr)), (1019, (·.spr.iccr))]

/-- The further special-purpose registers: written by a rule of their own, or Read-Only. -/
def otherSprs : List (Nat × (State → Word)) :=
  [(287, (·.spr.pvr)), (572, (·.spr.mcsr)), (888, (·.spr.ccr1)), (979, (·.spr.icdbdr)), (984, (·.tmr.tsr)),
   (986, (·.tmr.tcr)), (1008, (·.dbg.dbsr)), (1010, (·.dbg.dbcr0)), (284, (·.tmr.tbl))]

/-- The second numbers of SPRG4 to SPRG7, for reading in user mode. -/
def userSprgs : List (Nat × (State → Word)) :=
  [(260, (·.spr.sprg4)), (261, (·.spr.sprg5)), (262, (·.spr.sprg6)), (263, (·.spr.sprg7))]

/-- The processor may access special-purpose register `sprn`: the context is in force, and the mode is privileged unless bit 0x10
of the number is 0. -/
def mayAccess (sprn : BitVec 10) (s : State) : Prop := s.settled ∧ (sprn.getLsbD 4 = true → bit s.msr 17 = false)

/-- An instruction that writes `v` to `rD` and nothing else. -/
def Moves (i : Instr) (rD : Reg) (v : Word) (s : State) : Prop :=
  ∃ t, exec i s = .next t ∧ t = { s with gpr := t.gpr, pc := s.pc + 4#32 } ∧ SameMemory s t ∧ WritesReg rD v s t

/-- Congruence class by congruence class, the data cache has been invalidated since reset. -/
def dcacheInvalidated (s : State) : Prop := ∀ i : BitVec 8, s.dcacheReady.getLsbD i.toNat = true

/-- What R950 asks of a write of `v` to CCR0: to change IPP or FWOA, no interrupt can intervene, storage accesses are complete, and no
instruction was fetched from the bus since the last context synchronization; to change DPP1 or U0XE, the first two. -/
def ccr0Sequence (v : Word) (s : State) : Prop :=
  let change (k : Nat) : Prop := bit v k ≠ bit s.spr.ccr0 k
  let quiet : Prop := bit s.msr 14 = false ∧ bit s.msr 16 = false ∧ s.synced = true
  (change 10 ∨ change 11 ∨ change 23 → quiet ∧ s.busFetch = false) ∧ (change 9 ∨ change 14 → quiet)

/-- `v` makes a region cacheable that `old` does not. -/
def newlyCacheable (v old : Word) : Prop := ∃ k, k < 32 ∧ bit v k = true ∧ bit old k = false

/-- A write of `v` to register `n` that the hazards chapter allows: CCR0 in its sequence (R950), no region made cacheable before its
cache was invalidated after reset (R174). -/
def mayWrite (n : Nat) (v : Word) (s : State) : Prop :=
  (n = 947 → ccr0Sequence v s) ∧ (n = 1018 → newlyCacheable v s.spr.dccr → dcacheInvalidated s) ∧
    (n = 1019 → newlyCacheable v s.spr.iccr → s.icacheReady = true)

/-- An entry of the TLB after `tlbwe` with WS = 0 (R718; the places of its bits in the word
are the spec's own decision D18, log entry 28). -/
def tlbHigh (e : TlbEntry) (v pid : Word) : TlbEntry :=
  { e with tag := v.extractLsb' 10 22, size := v.extractLsb' 7 3, valid := bit v 25, endian := bit v 26, u0 := bit v 27,
           tid := pid.extractLsb' 0 8 }

/-- An entry of the TLB after `tlbwe` with WS = 1. -/
def tlbLow (e : TlbEntry) (v : Word) : TlbEntry :=
  { e with rpn := v.extractLsb' 10 22, ex := bit v 22, wr := bit v 23, zsel := v.extractLsb' 4 4, w := bit v 28,
           i := bit v 29, m := bit v 30, g := bit v 31 }

/-- The entry that rA[26:31] names as `tlbwe` with WS = 0 or 1 leaves it. -/
def tlbWritten (ws : BitVec 5) (rS rA : Reg) (s : State) : TlbEntry :=
  let e := s.tlbEntry ((s.reg rA).extractLsb' 0 6)
  if ws = 1#5 then tlbLow e (s.reg rS) else tlbHigh e (s.reg rS) s.spr.pid

/-- A valid entry makes its page cacheable although a cache was not invalidated since reset (R174). -/
def cachesTooEarly (e : TlbEntry) (s : State) : Prop :=
  e.valid = true ∧ e.i = false ∧ ¬ (dcacheInvalidated s ∧ s.icacheReady = true)

/-- A bit of a status register from which the bits that are 1 in `v` are cleared. -/
def clears (v old new : Word) : Prop := ∀ k, k < 32 → bit new k = (bit old k && !bit v k)

/-- The code of a kind of reset (R931). -/
def kindCode : ResetKind → BitVec 2
  | .processor => 1#2
  | .chip => 2#2
  | .system => 3#2

/-- Bit `b` goes from 0 to 1 when TBL goes from `x` to `y`. -/
def rises (b : Nat) (x y : Word) : Prop := bit x b = false ∧ bit y b = true

/-- Bit `b` of the time base goes from 0 to 1 when TBL goes from `x` to `x + 1`. -/
def rising (b : Nat) (x : Word) : Prop := rises b x (x + 1#32)

/-- The registers that every reset gives a value (R137), after a reset of kind `code`, caused by the watchdog or not. -/
structure AfterReset (code : BitVec 2) (watchdog : Bool) (s : State) : Prop where
  pc : s.pc = 0xFFFFFFFC#32
  msr : s.msr = 0#32
  ccr0 : s.spr.ccr0 = 0x00700000#32
  dbcr : s.dbg.dbcr0 = 0#32 ∧ s.dbg.dbcr1 = 0#32
  mrr : bit s.dbg.dbsr 22 = code.getLsbD 1 ∧ bit s.dbg.dbsr 23 = code.getLsbD 0
  cacheability : s.spr.dccr = 0#32 ∧ s.spr.iccr = 0#32
  esr : s.spr.esr = 0#32
  sgr : s.spr.sgr = 0xFFFFFFFF#32
  sler : s.spr.sler = 0#32
  su0r : s.spr.su0r = 0#32
  wrc : bit s.tmr.tcr 2 = false ∧ bit s.tmr.tcr 3 = false
  wrs : bit s.tmr.tsr 2 = (watchdog && code.getLsbD 1) ∧ bit s.tmr.tsr 3 = (watchdog && code.getLsbD 0)
  frozen : s.tmr.frozen = false
  running : s.run = .running

end Sys2Proof.Claims

/-- `mfspr` of every number that can be read (MCSR and CCR1 on a Virtex-4; TBL and TBU cannot be read with it), `mftb`, `mfcr`, and
in privileged mode `mfmsr` and `mfdcr` (a device behind a DCR gives an open value). That reserved bits read as last written, CCR1
among them, is the model's behaviour (log entries 6 and 30; R42 leaves the read unspecified). -/
def Obligations.MovesFromRegistersReadThem : Prop :=
  ∀ (rD : Reg) (sprn dcrn : BitVec 10) (f : State → Word) (s : State),
    (Claims.mayAccess sprn s → (sprn.toNat, f) ∈ Claims.plainSprs ++ Claims.otherSprs ++ Claims.userSprgs →
      sprn ≠ 284#10 → sprn ≠ 285#10 → (sprn = 572#10 ∨ sprn = 888#10 → s.virtex4 = true) →
      Claims.Moves (.mfspr rD sprn) rD (f s) s) ∧
    Claims.Moves (.mftb rD 268#10) rD s.tmr.tbl s ∧ Claims.Moves (.mftb rD 269#10) rD s.tmr.tbu s ∧
    Claims.Moves (.mfcr rD) rD s.cr s ∧
    (s.settled → bit s.msr 17 = false →
      Claims.Moves (.mfmsr rD) rD s.msr s ∧
      (dcrn.toNat ∉ s.env.dcrDevices → Claims.Moves (.mfdcr rD dcrn) rD (s.dcr[dcrn.toNat]'dcrn.isLt) s) ∧
      (dcrn.toNat ∈ s.env.dcrDevices →
        ∃ t, exec (.mfdcr rD dcrn) s = .next t ∧ t = { s with gpr := t.gpr, draws := t.draws, pc := s.pc + 4#32 } ∧
          SameMemory s t ∧ ∀ q, q ≠ rD → t.reg q = s.reg q))

/-- `mtspr` of a register that is simply written: the register holds rS, every other special-purpose register is as before, PIT
alone takes the reload value with it, and nothing else changes but what a later context synchronization brings into force. The
premise `mayWrite` leaves out the writes of CCR0, DCCR and ICCR that R950 and R174 call errors. A write of CCR0 that changes IPP or
FWOA begins the part of Sequence 1 in which no instruction may be fetched from the bus (R950). That the register takes rS in its
reserved bits too is the model's behaviour (log entry 6; R662 leaves them to R42). -/
def Obligations.MtsprWritesTheNamedRegister : Prop :=
  ∀ (rS : Reg) (sprn : BitVec 10) (f : State → Word) (s : State), Claims.mayAccess sprn s →
    (sprn.toNat, f) ∈ Claims.plainSprs → Claims.mayWrite sprn.toNat (s.reg rS) s →
    ∃ t, exec (.mtspr sprn rS) s = .next t ∧ SameMemory s t ∧
      t = { s with xer := t.xer, lr := t.lr, ctr := t.ctr, spr := t.spr, tmr := t.tmr, dbg := t.dbg, stale := t.stale,
                   ccr0Open := t.ccr0Open, pc := s.pc + 4#32 } ∧
      f t = s.reg rS ∧
      (t.ccr0Open = true ↔ s.ccr0Open = true ∨ (sprn = 947#10 ∧
        ∃ k, (k = 10 ∨ k = 11 ∨ k = 23) ∧ bit (s.reg rS) k ≠ bit s.spr.ccr0 k)) ∧
      (∀ m g, (m, g) ∈ Claims.plainSprs ++ Claims.otherSprs → m ≠ sprn.toNat → g t = g s) ∧
      t.tmr.frozen = s.tmr.frozen ∧ t.tmr.pitReload = (if sprn = 987#10 then s.reg rS else s.tmr.pitReload)

/-- `mtspr` of TSR, TCR, DBSR, MCSR, CCR1 and TBL, and of DBCR0 without a reset request: TSR, DBSR and MCSR lose the bits that are 1
in rS, TCR[WRC] is sticky, and the timers run again once DBSR but for MRR is 0. TBL holds rS. That a write of TBL is a time-out when it
changes a selected bit from 0 to 1 is the spec's decision D19 (log entry 28): then, unless the timers are frozen (R878), TSR[FIS] is set for
the bit that TCR[FP] selects, and for the one that TCR[WP] selects TSR[ENW], or TSR[WIS], or the processor is reset by TCR[WRC] (R853,
R854). The model's own are: that TCR and DBCR0 keep reserved bits as written (log entry 6), that CCR1 is a plain register and MCSR is
cleared bit by bit (log entry 30), and that a DBCR0 that changes leaves its old value recorded as one that may still be in force (log
entry 11). -/
def Obligations.MtsprOfStatusAndControlRegisters : Prop :=
  ∀ (rS : Reg) (s : State), s.settled → bit s.msr 17 = false →
    let v := s.reg rS
    (∃ x, Claims.clears v s.tmr.tsr x ∧
      exec (.mtspr 984#10 rS) s = .next { s with tmr := { s.tmr with tsr := x }, pc := s.pc + 4#32 }) ∧
    (∃ x, (∀ k, k < 32 → bit x k = if k = 2 ∨ k = 3 then bit s.tmr.tcr k || bit v k else bit v k) ∧
      exec (.mtspr 986#10 rS) s = .next { s with tmr := { s.tmr with tcr := x }, pc := s.pc + 4#32 }) ∧
    (∃ x fr, Claims.clears v s.dbg.dbsr x ∧
      (fr = true ↔ s.tmr.frozen = true ∧ ∃ k, k < 32 ∧ k ≠ 22 ∧ k ≠ 23 ∧ bit x k = true) ∧
      exec (.mtspr 1008#10 rS) s =
        .next { s with dbg := { s.dbg with dbsr := x }, tmr := { s.tmr with frozen := fr }, pc := s.pc + 4#32 }) ∧
    (s.virtex4 = true → ∃ x, Claims.clears v s.spr.mcsr x ∧
      exec (.mtspr 572#10 rS) s = .next { s with spr := { s.spr with mcsr := x }, pc := s.pc + 4#32 }) ∧
    (s.virtex4 = true →
      exec (.mtspr 888#10 rS) s = .next { s with spr := { s.spr with ccr1 := v }, pc := s.pc + 4#32 }) ∧
    (bit v 2 = false → bit v 3 = false →
      exec (.mtspr 1010#10 rS) s = .next { s with
        dbg := { s.dbg with dbcr0 := v }
        stale := if s.dbg.dbcr0 = v then [] else [{ reg := .dbcr0, old := s.dbg.dbcr0, live := true }]
        pc := s.pc + 4#32 }) ∧
    (s.tmr.frozen = true →
      exec (.mtspr 284#10 rS) s = .next { s with tmr := { s.tmr with tbl := v }, pc := s.pc + 4#32 }) ∧
    (s.tmr.frozen = false →
      let fit : Prop := Claims.rises (23 - 4 * (s.tmr.tcr.extractLsb' 24 2).toNat) s.tmr.tbl v
      let watchdog : Prop := Claims.rises (15 - 4 * (s.tmr.tcr.extractLsb' 30 2).toNat) s.tmr.tbl v
      let third : Prop := watchdog ∧ bit s.tmr.tsr 0 = true ∧ bit s.tmr.tsr 1 = true
      (¬ (third ∧ (bit s.tmr.tcr 2 = true ∨ bit s.tmr.tcr 3 = true)) →
        ∃ x, exec (.mtspr 284#10 rS) s = .next { s with tmr := { s.tmr with tbl := v, tsr := x }, pc := s.pc + 4#32 } ∧
          ∀ k, k < 32 → (bit x k = true ↔ bit s.tmr.tsr k = true ∨ (k = 5 ∧ fit) ∨ (k = 0 ∧ watchdog) ∨
            (k = 1 ∧ bit s.tmr.tsr 0 = true ∧ watchdog))) ∧
      ∀ kind : ResetKind, third → s.tmr.tcr.extractLsb' 28 2 = Claims.kindCode kind →
        ∃ t, exec (.mtspr 284#10 rS) s = .next t ∧ Claims.AfterReset (Claims.kindCode kind) true t ∧ t.mem = s.mem ∧
          t.spr.pvr = s.spr.pvr)

/-- `mtcrf` and `mcrxr`; `isync`, which brings every change of context into force and discards what was fetched; `sync` and `eieio`,
which complete earlier accesses: what was written can be old in the fetch queue only, the data fill buffer is empty, and a data bus
error is acted on at the next boundary; in privileged mode `mtmsr`, `wrtee`, `wrteei`, `mtdcr` (a write to a device leaves no trace).
A change of MSR[PR, IR, DR] waits for a context synchronization, but for no more than the three instructions that the fetch queue holds
(R941, R127; that each boundary counts as one of them is log entry 11): at the fourth boundary after it (`settle` is what a boundary does
to it) it is in force. An `mtmsr` that enables translation while a UTLB entry was never
written since reset is an error (U37), on which the model stops (log entry 16). The model's own are: that XER[3] is copied and MSR
taken in all 32 bits, reserved ones as last written (log entry 6), and what completing earlier accesses does to its records (log entries 8,
19, 25, 29). -/
def Obligations.MovesToCrMsrAndDcrAndSynchronization : Prop :=
  ∀ (rS : Reg) (crm : BitVec 8) (crfD : BitVec 3) (dcrn : BitVec 10) (e : Bool) (s : State),
    let v := s.reg rS
    (∃ x, (∀ k, k < 32 → bit x k = if crm.getLsbD (7 - k / 4) then bit v k else bit s.cr k) ∧
      exec (.mtcrf crm rS) s = .next { s with cr := x, pc := s.pc + 4#32 }) ∧
    (∃ t, exec (.mcrxr crfD) s = .next t ∧ t = { s with cr := t.cr, xer := t.xer, pc := s.pc + 4#32 } ∧ SameMemory s t ∧
      WritesField crfD (bit s.xer 0) (bit s.xer 1) (bit s.xer 2) (bit s.xer 3) s t ∧
      ∀ k, k < 32 → bit t.xer k = (decide (4 ≤ k) && bit s.xer k)) ∧
    exec .isync s = .next { s with stale := [], itlbOld := [], dtlbOld := [], oldCode := [], oldLines := [], busFetch := false
                                   ccr0Open := false, pc := s.pc + 4#32 } ∧
    (∀ i, i = .sync ∨ i = .eieio →
      exec i s = .next { s with oldMem := [], oldCode := s.oldCode ++ s.oldMem, dfb := none, synced := true,
                                mcDue := s.mcDue || s.dataMC, pc := s.pc + 4#32 }) ∧
    (s.settled → bit s.msr 17 = false →
      (Claims.translatesTooEarly v s → exec (.mtmsr rS) s = .fault .tlbNotInitialized) ∧
      (¬ Claims.translatesTooEarly v s →
        ∃ t, exec (.mtmsr rS) s = .next t ∧ t = { s with msr := v, stale := t.stale, pc := s.pc + 4#32 } ∧
          (bit v 17 = bit s.msr 17 → bit v 26 = bit s.msr 26 → bit v 27 = bit s.msr 27 → t.stale = []) ∧
          t.settle.settle.settle.settle.inForce .msr = v) ∧
      (∃ x, (∀ k, k < 32 → bit x k = if k = 16 then bit v 16 else bit s.msr k) ∧
        exec (.wrtee rS) s = .next { s with msr := x, pc := s.pc + 4#32 }) ∧
      (∃ x, (∀ k, k < 32 → bit x k = if k = 16 then e else bit s.msr k) ∧
        exec (.wrteei e) s = .next { s with msr := x, pc := s.pc + 4#32 }) ∧
      (dcrn.toNat ∈ s.env.dcrDevices → exec (.mtdcr dcrn rS) s = .next { s with pc := s.pc + 4#32 }) ∧
      (dcrn.toNat ∉ s.env.dcrDevices →
        ∃ t, exec (.mtdcr dcrn rS) s = .next t ∧ t = { s with dcr := t.dcr, pc := s.pc + 4#32 } ∧
          ∀ m : BitVec 10, t.dcr[m.toNat]'m.isLt = if m = dcrn then v else s.dcr[m.toNat]'m.isLt))

/-! ### Loads and stores (41_load_store.md, 20_memory.md), in calm states and plain storage -/

namespace Sys2Proof.Claims

/-- A load or a store of one scalar: the instruction, its effective address, its width in bytes, whether a loaded number is
signed, and whether its bytes are reversed. -/
structure Scalar where
  instr : Instr
  ea : Word
  width : Nat
  signed : Bool := false
  reversed : Bool := false
  deriving DecidableEq, Repr

/-- The word that a number of `n` bytes gives a register. -/
def extend (signed : Bool) (n x : Nat) : Word :=
  BitVec.ofInt 32 (if signed ∧ 2 ^ (8 * n - 1) ≤ x then (x : Int) - 2 ^ (8 * n) else x)

/-- What a scalar load gives its register. -/
def Scalar.value (c : Scalar) (little : Bool) (s : State) : Word :=
  extend c.signed c.width (s.number (little != c.reversed) c.ea c.width)

/-- The loads that write only rD. -/
def loads (rD rA rB : Reg) (d : BitVec 16) (s : State) : List Scalar :=
  [⟨.lbz rD rA d, s.eaD rA d, 1, false, false⟩, ⟨.lbzx rD rA rB, s.eaX rA rB, 1, false, false⟩,
   ⟨.lhz rD rA d, s.eaD rA d, 2, false, false⟩, ⟨.lhzx rD rA rB, s.eaX rA rB, 2, false, false⟩,
   ⟨.lha rD rA d, s.eaD rA d, 2, true, false⟩, ⟨.lhax rD rA rB, s.eaX rA rB, 2, true, false⟩,
   ⟨.lwz rD rA d, s.eaD rA d, 4, false, false⟩, ⟨.lwzx rD rA rB, s.eaX rA rB, 4, false, false⟩,
   ⟨.lhbrx rD rA rB, s.eaX rA rB, 2, false, true⟩, ⟨.lwbrx rD rA rB, s.eaX rA rB, 4, false, true⟩]

/-- The loads with update. -/
def updateLoads (rD rA rB : Reg) (d : BitVec 16) (s : State) : List Scalar :=
  [⟨.lbzu rD rA d, s.eaD rA d, 1, false, false⟩, ⟨.lbzux rD rA rB, s.eaX rA rB, 1, false, false⟩,
   ⟨.lhzu rD rA d, s.eaD rA d, 2, false, false⟩, ⟨.lhzux rD rA rB, s.eaX rA rB, 2, false, false⟩,
   ⟨.lhau rD rA d, s.eaD rA d, 2, true, false⟩, ⟨.lhaux rD rA rB, s.eaX rA rB, 2, true, false⟩,
   ⟨.lwzu rD rA d, s.eaD rA d, 4, false, false⟩, ⟨.lwzux rD rA rB, s.eaX rA rB, 4, false, false⟩]

/-- The stores that write no register. -/
def stores (rS rA rB : Reg) (d : BitVec 16) (s : State) : List Scalar :=
  [⟨.stb rS rA d, s.eaD rA d, 1, false, false⟩, ⟨.stbx rS rA rB, s.eaX rA rB, 1, false, false⟩,
   ⟨.sth rS rA d, s.eaD rA d, 2, false, false⟩, ⟨.sthx rS rA rB, s.eaX rA rB, 2, false, false⟩,
   ⟨.stw rS rA d, s.eaD rA d, 4, false, false⟩, ⟨.stwx rS rA rB, s.eaX rA rB, 4, false, false⟩,
   ⟨.sthbrx rS rA rB, s.eaX rA rB, 2, false, true⟩, ⟨.stwbrx rS rA rB, s.eaX rA rB, 4, false, true⟩]

/-- The stores with update. -/
def updateStores (rS rA rB : Reg) (d : BitVec 16) (s : State) : List Scalar :=
  [⟨.stbu rS rA d, s.eaD rA d, 1, false, false⟩, ⟨.stbux rS rA rB, s.eaX rA rB, 1, false, false⟩,
   ⟨.sthu rS rA d, s.eaD rA d, 2, false, false⟩, ⟨.sthux rS rA rB, s.eaX rA rB, 2, false, false⟩,
   ⟨.stwu rS rA d, s.eaD rA d, 4, false, false⟩, ⟨.stwux rS rA rB, s.eaX rA rB, 4, false, false⟩]

/-- The scalar loads of a valid form, with whether they update rA (R422). -/
def loadForms (rD rA rB : Reg) (d : BitVec 16) (s : State) : List (Scalar × Bool) :=
  (loads rD rA rB d s).map (·, false) ++
    if rA = 0#5 ∨ rA = rD then [] else (updateLoads rD rA rB d s).map (·, true)

/-- The scalar stores of a valid form, with whether they update rA. -/
def storeForms (rS rA rB : Reg) (d : BitVec 16) (s : State) : List (Scalar × Bool) :=
  (stores rS rA rB d s).map (·, false) ++ if rA = 0#5 then [] else (updateStores rS rA rB d s).map (·, true)

/-- What a load leaves in the registers: the value in rD, and with update the address in rA. -/
def LoadsRegs (update : Bool) (rD rA : Reg) (v ea : Word) (s t : State) : Prop :=
  if update then WritesTwo rD v rA ea s t else WritesReg rD v s t

/-- What a store leaves in the registers. -/
def StoresRegs (update : Bool) (rA : Reg) (ea : Word) (s t : State) : Prop :=
  if update then WritesReg rA ea s t else SameRegs s t

/-- A load changes only registers, the pc, the data fill buffer, and the record that an access has begun. -/
def OnlyLoads (s t : State) : Prop :=
  t = { s with gpr := t.gpr, dfb := t.dfb, synced := false, pc := s.pc + 4#32 } ∧ SameMemory s t

/-- A store changes only memory, the old words the instruction side may still see, registers as said, the pc, and the record that an
access has begun. -/
def OnlyStores (s t : State) : Prop :=
  t = { s with gpr := t.gpr, mem := t.mem, oldMem := t.oldMem, synced := false, pc := s.pc + 4#32 }

/-- What a data access through the cache at `ea` may do to memory besides what it stores: a byte of memory stays, or takes the value
the data side reads for it (a line cast out); and only in the class of `ea`. -/
def CastsOut (ea : Word) (s t : State) : Prop :=
  (∀ a, t.mem.read a = s.mem.read a ∨ t.mem.read a = s.dataByte a) ∧
    ∀ a, classIndex a ≠ classIndex ea → t.mem.read a = s.mem.read a

/-- The data cache holds the line of `ea`, and it is dirty. -/
def dirtyAt (s : State) (ea : Word) : Bool :=
  match s.dHit ea with
  | some w => ((s.dClass (classIndex ea)).line w).dirty
  | none => false

/-- The line of `ea` placed in the data cache (R161): in the least recently used way of its class, or in a way that was not valid (which
of the two is open, U13); the other way's line and every other class are as before, and the other way is now the least recently used. -/
def Allocates (ea : Word) (s t : State) : Prop :=
  let i := classIndex ea
  ∃ w, t.dHit ea = some w ∧
    (w = (if (s.dClass i).lru then Way.b else Way.a) ∨ ((s.dClass i).line w).valid = false) ∧
    (t.dClass i).line w.other = (s.dClass i).line w.other ∧ (t.dClass i).lru = (w == Way.a) ∧
    ∀ j, j ≠ i → t.dClass j = s.dClass j

/-- Every class of the data cache that agreed with memory still does: a valid line that is not dirty holds what memory holds. -/
def StaysCoherent (s t : State) : Prop := ∀ i, s.coherent i → t.coherent i

/-- The data side reads every byte as before. -/
def SameData (s t : State) : Prop := ∀ a, t.dataByte a = s.dataByte a

/-- The premises of accesses through the data cache: calm, canonical memory, memory everywhere, and the class of `ea` agrees with
memory. -/
def cacheReady (ea : Word) (s : State) : Prop :=
  s.calmData ∧ s.mem.wf = true ∧ s.quietBus ∧ s.coherent (classIndex ea)

/-- A scalar within one word of cacheable storage in real mode, of byte order `little`. -/
def Scalar.cacheable (c : Scalar) (little : Bool) (s : State) : Prop :=
  cacheReady c.ea s ∧ c.ea.toNat % 4 + c.width ≤ 4 ∧ regionBit s.spr.dccr c.ea = true ∧
    ocmHolds s.env.dataOcm c.ea = false ∧ regionBit s.spr.sler c.ea = little

/-- What a load through the data cache changes, whose line is a hit or not (R164): a miss fills the line unless CCR0[LWOA] = 1. No line
becomes dirty. -/
def LoadsCached (ea : Word) (s t : State) : Prop :=
  t = { s with gpr := t.gpr, dcache := t.dcache, mem := t.mem, oldMem := t.oldMem, dfb := t.dfb, draws := t.draws,
               synced := false, pc := s.pc + 4#32 } ∧
    SameData s t ∧ CastsOut ea s t ∧ dirtyAt t ea = dirtyAt s ea ∧ StaysCoherent s t ∧
    ((s.dHit ea).isSome = true → t.mem = s.mem ∧ ∀ a, t.dHit a = s.dHit a) ∧
    (s.dHit ea = none → bit s.spr.ccr0 7 = false → Allocates ea s t) ∧
    ((s.dHit ea).isSome = false → bit s.spr.ccr0 7 = true → t.dcache = s.dcache ∧ t.mem = s.mem)

/-- What a store through the data cache does (the table of R165) with the `n` low-order bytes of `v`: a hit writes the line, and
memory too if the storage is write-through; a miss writes memory only if it is write-through or CCR0[SWOA] = 1, else it fills the line
and writes that. The line becomes dirty where the storage is write-back, and stays as it was where it is write-through. -/
def StoresCached (little : Bool) (ea : Word) (n : Nat) (v : Word) (s t : State) : Prop :=
  let hit := (s.dHit ea).isSome
  let through := regionBit s.spr.dcwr ea
  t = { s with gpr := t.gpr, dcache := t.dcache, mem := t.mem, oldMem := t.oldMem, draws := t.draws, synced := false,
               pc := s.pc + 4#32 } ∧
    (∀ a, t.dataByte a = if (a - ea).toNat < n then memByte little n v (a - ea).toNat else s.dataByte a) ∧
    (through = true ∨ (hit = false ∧ bit s.spr.ccr0 8 = true) → Stores little ea n v s t) ∧
    (hit = false → through = true ∨ bit s.spr.ccr0 8 = true → t.dcache = s.dcache) ∧
    (hit = true → through = false → t.mem = s.mem ∧ dirtyAt t ea = true) ∧
    (hit = true → through = true → dirtyAt t ea = dirtyAt s ea) ∧ (hit = true → ∀ a, t.dHit a = s.dHit a) ∧
    (hit = false → through = false → bit s.spr.ccr0 8 = false → CastsOut ea s t ∧ Allocates ea s t ∧ dirtyAt t ea = true) ∧
    StaysCoherent s t

/-- A scalar of on-chip memory in real mode, of byte order `little`. -/
def Scalar.onChip (c : Scalar) (little : Bool) (s : State) : Prop :=
  ∀ k, k < c.width → ocmHolds s.env.dataOcm (c.ea + BitVec.ofNat 32 k) = true ∧
    regionBit s.spr.sler (c.ea + BitVec.ofNat 32 k) = little

/-- What a scalar load gives its register from on-chip memory. -/
def Scalar.onChipValue (c : Scalar) (little : Bool) (s : State) : Word :=
  let bytes := (List.range c.width).map fun k => s.dataOcm.read (c.ea + BitVec.ofNat 32 k)
  extend c.signed c.width (bigEndian (if little != c.reversed then bytes.reverse else bytes))

/-- A scalar within one word of non-cacheable storage in real mode, where no debug event is enabled. -/
def Scalar.uncached (c : Scalar) (s : State) : Prop :=
  s.calmData ∧ s.dbg.dbcr0 = 0#32 ∧ c.ea.toNat % 4 + c.width ≤ 4 ∧ regionBit s.spr.dccr c.ea = false ∧
    s.dHit c.ea = none ∧ ocmHolds s.env.dataOcm c.ea = false

/-- One of the bytes of a scalar is of a kind. -/
def Scalar.meets (c : Scalar) (k : MemKind) (s : State) : Prop :=
  ∃ i, i < c.width ∧ s.memKind (c.ea + BitVec.ofNat 32 i) = k

/-- A data bus error met by a scalar access (R766, U11): the access is completed with an open value, or an open choice which of the bytes
`stored` reach memory, and the error waits to be acted on; or, with MSR[ME] = 1, the data machine check is taken at the instruction. On a
Virtex-4 MCSR records MCS and DPLBE, and freely IMCE (bit 8). Registers outside `written` are as before. A form with update, of rA, has
written the address to it where the access is completed, and not where the machine check is taken. -/
def MeetsBusError (written : List Reg) (update : Option (Reg × Word)) (stored : Word → Option Byte) (s t : State) : Prop :=
  (∀ q, q ∉ written → (∀ u ∈ update, q ≠ u.1) → t.reg q = s.reg q) ∧
  (∀ u ∈ update, t.reg u.1 = if t.dataMC then u.2 else s.reg u.1) ∧
  (∀ a, t.mem.read a = s.mem.read a ∨ some (t.mem.read a) = stored a) ∧
  (s.virtex4 = false → t.spr.mcsr = s.spr.mcsr) ∧
  (s.virtex4 = true → ∀ k, k < 32 → k ≠ 8 → bit t.spr.mcsr k = (bit s.spr.mcsr k || decide (k = 0 ∨ k = 2))) ∧
  (t = { s with gpr := t.gpr, mem := t.mem, oldMem := t.oldMem, draws := t.draws, synced := false, dataMC := true, pc := s.pc + 4#32
                spr := { s.spr with mcsr := t.spr.mcsr } } ∨
   bit s.msr 19 = true ∧
     t = { s with gpr := t.gpr, mem := t.mem, oldMem := t.oldMem, draws := t.draws, synced := false, dataMC := false, mcDue := false
                  spr := { s.spr with mcsr := t.spr.mcsr, srr2 := s.pc &&& 0xFFFFFFFC#32, srr3 := s.msr }
                  msr := 0#32, pc := (s.spr.evpr &&& 0xFFFF0000#32) ||| 0x0200#32
                  stale := [], itlbOld := [], dtlbOld := [], oldCode := [], oldLines := [], busFetch := false, ccr0Open := false
                  retire := .excepted })

/-- A bus error in the words that `n` bytes of non-cacheable storage from `ea` on lie in, be it for a byte that does not belong to these,
in real mode where no debug event is enabled. -/
def WordsMeetBusError (ea : Word) (n : Nat) (s : State) : Prop :=
  s.dbg.dbcr0 = 0#32 ∧
  (∀ k, k < n → let a := ea + BitVec.ofNat 32 k
    regionBit s.spr.dccr a = false ∧ s.dHit a = none ∧ ocmHolds s.env.dataOcm a = false) ∧
  ∃ k, k < n ∧ ∃ a, wordOf a = wordOf (ea + BitVec.ofNat 32 k) ∧ s.memKind a = .vacant

/-- A load of a multiple or a string that meets a bus error: as that of a scalar, for the registers that it may load, but that it may
have left a block in the data fill buffer. -/
def LoadReportsError (i : Instr) (loaded : Reg → Bool) (s : State) : Prop :=
  ∃ t, exec i s = .next t ∧
    MeetsBusError (((List.range 32).map (BitVec.ofNat 5)).filter loaded) none (fun _ => none) s { t with dfb := s.dfb }

/-- Word `j` of a string of `n` bytes at `ea`, filled up with zeros (R464). -/
def stringWord (s : State) (ea : Word) (n j : Nat) : Word :=
  BitVec.ofNat 32 (bigEndian ((List.range 4).map fun k =>
    if 4 * j + k < n then s.dataByte (ea + BitVec.ofNat 32 (4 * j + k)) else 0#8))

/-- A string load of `n` bytes loads register `q`: one of the registers rD on, modulo 32, but not rA unless that is the last. -/
def loadedByString (rD rA : Reg) (n : Nat) (q : Reg) : Bool :=
  let j := (q - rD).toNat
  decide (4 * j < n ∧ (q ≠ rA ∨ n ≤ 4 * (j + 1)))

/-- A string load of `n` bytes from `ea`: where its words are memory, the registers it loads hold them; where one of the words meets a
bus error, the error is reported. -/
def LoadsString (i : Instr) (rD rA : Reg) (ea : Word) (n : Nat) (little : Bool) (s : State) : Prop :=
  (s.plain little ea n → s.wordsAnswer ea n → s.blocksAnswer ea n →
    ∃ t, exec i s = .next t ∧ OnlyLoads s t ∧ ∀ q : Reg,
      t.reg q = if loadedByString rD rA n q then stringWord s ea n (q - rD).toNat else s.reg q) ∧
  (WordsMeetBusError ea n s → LoadReportsError i (loadedByString rD rA n) s)

/-- A string store of `n` bytes to `ea` from registers rS on, modulo 32. -/
def StoresString (i : Instr) (rS : Reg) (ea : Word) (n : Nat) (s : State) : Prop :=
  ∃ t, exec i s = .next t ∧ OnlyStores s t ∧ SameRegs s t ∧ ∀ a, t.mem.read a =
    let k := (a - ea).toNat
    if k < n then memByte false 4 (s.reg (rS + BitVec.ofNat 5 (k / 4))) (k % 4) else s.mem.read a

end Sys2Proof.Claims

/-- Every load: rD holds the number in memory at the effective address, in the byte order of the storage (or reversed), zero- or
sign-extended; with update, rA neither 0 nor rD, rA holds the effective address as well. From plain storage; within a word of
cacheable storage, where a miss fills the line unless CCR0[LWOA] = 1 and no line becomes dirty; from on-chip memory; and where the bus
answers with an error, which is reported: what rD gets is open, and rA is updated unless the machine check is taken at the load. -/
def Obligations.LoadsReadMemory : Prop :=
  ∀ (rD rA rB : Reg) (d : BitVec 16) (little : Bool) (s : State), s.calmData →
    ∀ c u, (c, u) ∈ Claims.loadForms rD rA rB d s →
      (s.plain little c.ea c.width → s.blocksAnswer c.ea c.width →
        ∃ t, exec c.instr s = .next t ∧ Claims.OnlyLoads s t ∧ Claims.LoadsRegs u rD rA (c.value little s) c.ea s t) ∧
      (c.cacheable little s →
        ∃ t, exec c.instr s = .next t ∧ Claims.LoadsCached c.ea s t ∧ Claims.LoadsRegs u rD rA (c.value little s) c.ea s t) ∧
      (c.onChip little s →
        ∃ t, exec c.instr s = .next t ∧ t = { s with gpr := t.gpr, synced := false, pc := s.pc + 4#32 } ∧ SameMemory s t ∧
          Claims.LoadsRegs u rD rA (c.onChipValue little s) c.ea s t) ∧
      (c.uncached s → c.meets .vacant s →
        ∃ t, exec c.instr s = .next t ∧
          Claims.MeetsBusError [rD] (if u then some (rA, c.ea) else none) (fun _ => none) s t)

/-- Every store: the low-order bytes of rS, as it was before, at the effective address, every other byte as before; with update,
rA not 0, rA holds the effective address. To plain storage; within a word of cacheable storage by the table of R165, a write-back hit
or miss, a write-through hit or miss, CCR0[SWOA], with the line dirty where it is write-back; to on-chip memory; where the bus answers
with an error, which is reported: which bytes are written is open, and rA is updated unless the machine check is taken at the store; and
where nothing is behind the address, a programming error on which the model stops (U34, log entry 16). -/
def Obligations.StoresWriteMemory : Prop :=
  ∀ (rS rA rB : Reg) (d : BitVec 16) (little : Bool) (s : State), s.calmData → s.mem.wf = true →
    ∀ c u, (c, u) ∈ Claims.storeForms rS rA rB d s →
      let order := little != c.reversed
      let stored (a : Word) : Option Byte :=
        if (a - c.ea).toNat < c.width then some (memByte order c.width (s.reg rS) (a - c.ea).toNat) else none
      (s.plain little c.ea c.width →
        ∃ t, exec c.instr s = .next t ∧ Claims.OnlyStores s t ∧ Claims.StoresRegs u rA c.ea s t ∧
          Stores order c.ea c.width (s.reg rS) s t) ∧
      (c.cacheable little s →
        ∃ t, exec c.instr s = .next t ∧ Claims.StoresCached order c.ea c.width (s.reg rS) s t ∧ Claims.StoresRegs u rA c.ea s t) ∧
      (c.onChip little s → s.dataOcm.wf = true →
        ∃ t, exec c.instr s = .next t ∧ t = { s with gpr := t.gpr, dataOcm := t.dataOcm, synced := false, pc := s.pc + 4#32 } ∧
          Claims.StoresRegs u rA c.ea s t ∧ ∀ a, t.dataOcm.read a = (stored a).getD (s.dataOcm.read a)) ∧
      (c.uncached s → regionBit s.spr.sler c.ea = little → c.meets .vacant s → ¬ c.meets .absent s →
        ∃ t, exec c.instr s = .next t ∧ Claims.MeetsBusError [] (if u then some (rA, c.ea) else none) stored s t) ∧
      (c.uncached s → c.meets .absent s → exec c.instr s = .fault .writeToNothing)

/-- Forms and uses that the spec calls invalid or an error stop: a load with update with rA = 0 or rA = rD and a store with update with
rA = 0 (R422, U21); `mfspr`, `mtspr` and `mftb` of a number that is not implemented or does not have that access (U24), unless the
number is privileged and the mode is user; `tlbre` and `tlbwe` with WS over 1 (U25); a write of CCR0 outside its sequence (R950,
U33); DCCR, ICCR or a valid TLB entry that makes storage cacheable before the cache was invalidated after reset (R174, U32). -/
def Obligations.InvalidFormsStop : Prop :=
  ∀ (rD rA rB ws : Reg) (d : BitVec 16) (sprn tbrn : BitVec 10) (s : State),
    (rA = 0#5 ∨ rA = rD → ∀ c ∈ Claims.updateLoads rD rA rB d s, exec c.instr s = .refused .invalidUpdateForm) ∧
    (rA = 0#5 → ∀ c ∈ Claims.updateStores rD rA rB d s, exec c.instr s = .refused .invalidUpdateForm) ∧
    (Claims.mayAccess sprn s → (∀ f, (sprn.toNat, f) ∉ Claims.plainSprs ++ Claims.otherSprs ++ Claims.userSprgs) →
      exec (.mfspr rD sprn) s = .refused .unsupportedSpr ∧ exec (.mtspr sprn rD) s = .refused .unsupportedSpr) ∧
    (Claims.mayAccess sprn s → sprn = 284#10 ∨ sprn = 285#10 → exec (.mfspr rD sprn) s = .refused .unsupportedSpr) ∧
    (Claims.mayAccess sprn s → sprn ∈ [260#10, 261#10, 262#10, 263#10, 287#10, 979#10] →
      exec (.mtspr sprn rD) s = .refused .unsupportedSpr) ∧
    (Claims.mayAccess sprn s → sprn = 572#10 ∨ sprn = 888#10 → s.virtex4 = false →
      exec (.mfspr rD sprn) s = .refused .unsupportedSpr ∧ exec (.mtspr sprn rD) s = .refused .unsupportedSpr) ∧
    (tbrn ≠ 268#10 → tbrn ≠ 269#10 → exec (.mftb rD tbrn) s = .refused .unsupportedTbr) ∧
    (s.settled → bit s.msr 17 = false → 1 < ws.toNat →
      exec (.tlbwe rD rA ws) s = .refused .invalidWordSelect ∧ exec (.tlbre rD rA ws) s = .refused .invalidWordSelect) ∧
    (s.settled → bit s.msr 17 = false →
      (¬ Claims.ccr0Sequence (s.reg rD) s → exec (.mtspr 947#10 rD) s = .fault .ccr0OutsideSequence) ∧
      (Claims.newlyCacheable (s.reg rD) s.spr.dccr → ¬ Claims.dcacheInvalidated s →
        exec (.mtspr 1018#10 rD) s = .fault .cacheNotInvalidated) ∧
      (Claims.newlyCacheable (s.reg rD) s.spr.iccr → s.icacheReady = false →
        exec (.mtspr 1019#10 rD) s = .fault .cacheNotInvalidated) ∧
      (ws.toNat ≤ 1 → Claims.cachesTooEarly (Claims.tlbWritten ws rD rA s) s →
        exec (.tlbwe rD rA ws) s = .fault .cacheNotInvalidated))

/-- `lwarx` loads as `lwzx` and reserves; `stwcx.` stores only with a reservation, says so in CR0 with XER[SO], and ends the
reservation; aligned addresses in plain storage. -/
def Obligations.LoadReserveAndStoreConditional : Prop :=
  ∀ (rD rA rB : Reg) (little : Bool) (s : State), s.calmData → s.mem.wf = true → s.plain little (s.eaX rA rB) 4 →
    (s.eaX rA rB).toNat % 4 = 0 →
    (s.blocksAnswer (s.eaX rA rB) 4 → ∃ t, exec (.lwarx rD rA rB) s = .next t ∧
      t = { s with gpr := t.gpr, dfb := t.dfb, synced := false, reserve := true, pc := s.pc + 4#32 } ∧ SameMemory s t ∧
      WritesReg rD (BitVec.ofNat 32 (s.number little (s.eaX rA rB) 4)) s t) ∧
    (s.reserve = true → ∃ t, exec (.stwcx rD rA rB) s = .next t ∧
      t = { s with mem := t.mem, oldMem := t.oldMem, synced := false, cr := t.cr, reserve := false, pc := s.pc + 4#32 } ∧
      Stores little (s.eaX rA rB) 4 (s.reg rD) s t ∧ WritesField 0#3 false false true (bit s.xer 0) s t) ∧
    (s.reserve = false → ∃ t, exec (.stwcx rD rA rB) s = .next t ∧
      t = { s with cr := t.cr, synced := false, reserve := false, pc := s.pc + 4#32 } ∧ SameMemory s t ∧
      WritesField 0#3 false false false (bit s.xer 0) s t)

/-- `lmw` and `stmw`: the words of registers rD to 31 at consecutive addresses; `lmw` leaves rA as it is unless it is r31. `lmw` with
rA in the range is an invalid form (U22), which runs so by the model's choice (log entry 18). `lmw` reads the aligned words that its
operand lies in whole (R966): where the bus answers with an error for a byte of them, be it one that is discarded, the error is
reported (R766; what the registers get and when it is acted on is log entry 15). -/
def Obligations.LoadAndStoreMultiple : Prop :=
  ∀ (rD rA : Reg) (d : BitVec 16) (little : Bool) (s : State), s.calmData → s.mem.wf = true →
    let ea := s.eaD rA d
    let n := 4 * (32 - rD.toNat)
    let loaded (q : Reg) : Bool := decide (rD.toNat ≤ q.toNat ∧ (q ≠ rA ∨ q = 31#5))
    (s.plain little ea n → s.wordsAnswer ea n → s.blocksAnswer ea n →
      ∃ t, exec (.lmw rD rA d) s = .next t ∧ Claims.OnlyLoads s t ∧ ∀ q : Reg, t.reg q =
        if loaded q then BitVec.ofNat 32 (s.number little (ea + BitVec.ofNat 32 (4 * (q.toNat - rD.toNat))) 4) else s.reg q) ∧
    (Claims.WordsMeetBusError ea n s → Claims.LoadReportsError (.lmw rD rA d) loaded s) ∧
    (s.plain little ea n →
      ∃ t, exec (.stmw rD rA d) s = .next t ∧ Claims.OnlyStores s t ∧ SameRegs s t ∧ ∀ a, t.mem.read a =
        let k := (a - ea).toNat
        if k < n then memByte little 4 (s.reg (rD + BitVec.ofNat 5 (k / 4))) (k % 4) else s.mem.read a)

/-- `lswi`, `stswi` (32 bytes for NB = 0), `lswx`, `stswx` (XER[TBC] bytes; nothing at all for 0): bytes in the order of memory,
whatever the byte order of the storage. The model's choices are (log entry 18): that a string load with rA or rB in the range, an
invalid form (U22), runs so, and that `lswx` with no byte makes no line fill, which R465 would allow. A load reads the aligned words
that the string lies in whole (R966): where the bus answers with an error for a byte of them, be it one that is discarded, the error is
reported (R766; what the registers get and when it is acted on is log entry 15). -/
def Obligations.LoadAndStoreString : Prop :=
  ∀ (rD rA rB nb : Reg) (little : Bool) (s : State), s.calmData → s.mem.wf = true →
    let n := if nb = 0#5 then 32 else nb.toNat
    let tbc := s.xer.toNat % 128
    Claims.LoadsString (.lswi rD rA nb) rD rA (s.eaR rA) n little s ∧
    (s.plain little (s.eaR rA) n → Claims.StoresString (.stswi rD rA nb) rD (s.eaR rA) n s) ∧
    (tbc ≠ 0 →
      Claims.LoadsString (.lswx rD rA rB) rD rA (s.eaX rA rB) tbc little s ∧
      (s.plain little (s.eaX rA rB) tbc → Claims.StoresString (.stswx rD rA rB) rD (s.eaX rA rB) tbc s)) ∧
    (tbc = 0 → exec (.lswx rD rA rB) s = .next { s with pc := s.pc + 4#32 } ∧
      exec (.stswx rD rA rB) s = .next { s with pc := s.pc + 4#32 })

/-! ### Cache and TLB instructions (46_cache_tlb.md) -/

namespace Sys2Proof.Claims

/-- A cache instruction changes only the data cache, memory by cast-out, the old words the instruction side may still see, the
counter of free values, the pc, and the record that an access has begun. -/
def OnlyDataCache (s t : State) : Prop :=
  t = { s with dcache := t.dcache, mem := t.mem, oldMem := t.oldMem, draws := t.draws, synced := false, pc := s.pc + 4#32 }

/-- Entry `i` of the UTLB translates `ea` for the process in PID. -/
def translates (s : State) (ea : Word) (i : BitVec 6) : Prop := (s.tlbEntry i).hits (s.spr.pid.extractLsb' 0 8) ea = true

end Sys2Proof.Claims

/-- `dcbz` and `dcba` in cacheable write-back storage: the line is in the cache, its 32 bytes zero and the line dirty for `dcbz` (R707),
open for `dcba`, every other byte as before; a line they replace is cast out, and it is the least recently used one or one that is not
valid (so that a second `dcbz` never replaces the line of the first, R180). In other storage `dcba` does nothing: that on-chip memory is
such storage, also where DCCR and DCWR make its region cacheable write-back, rests on the spec's decision D6 of 92_eei_decisions.md
(accesses to it are non-cacheable) and on the model's choice of log entry 29. -/
def Obligations.DcbzAndDcbaEstablishTheBlock : Prop :=
  ∀ (rA rB : Reg) (s : State), Claims.cacheReady (s.eaX rA rB) s →
    let ea := s.eaX rA rB
    (s.writeBackRegion ea →
      (∃ t, exec (.dcbz rA rB) s = .next t ∧ Claims.OnlyDataCache s t ∧ Claims.CastsOut ea s t ∧
        Claims.dirtyAt t ea = true ∧ Claims.StaysCoherent s t ∧ (s.dHit ea = none → Claims.Allocates ea s t) ∧
        (t.dHit ea).isSome = true ∧ ∀ a, t.dataByte a = if blockOf a = blockOf ea then 0#8 else s.dataByte a) ∧
      ∃ t, exec (.dcba rA rB) s = .next t ∧ Claims.OnlyDataCache s t ∧ Claims.CastsOut ea s t ∧
        (s.dHit ea = none → Claims.Allocates ea s t) ∧ (t.dHit ea).isSome = true ∧
        ∀ a, blockOf a ≠ blockOf ea → t.dataByte a = s.dataByte a) ∧
    (¬ s.writeBackRegion ea → exec (.dcba rA rB) s = .next { s with synced := false, pc := s.pc + 4#32 })

/-- `dcbf`, `dcbst`, `dcbt`, `dcbtst` change no byte the data side reads. After `dcbf` the line is not in the cache; after `dcbst`
memory holds the block, and the line, where there is one, stays and is clean (R704); after a touch of cacheable storage with
CCR0[LWOA] = 0 the line is in the cache, whatever CCR0[SWOA] is: that CCR0[SWOA] = 1 suppresses no touch is the model's choice (log
entry 24; N46.4 leaves it unstated); other storage is not touched; a touch makes no line dirty. That on-chip memory is not touched
either is the model's choice (log entry 29), after the decision D6 of 92_eei_decisions.md that accesses to it are non-cacheable.
Where a dirty line is cast out to an address with nothing behind it, `dcbf` and `dcbst` stop; where the bus answers it with an
error, the error is reported, or the machine check taken at the instruction (R181, R185, U34; the forms of both are log entries 15
and 16). -/
def Obligations.FlushesAndTouchesKeepEveryByte : Prop :=
  (∀ (rA rB : Reg) (s : State), Claims.cacheReady (s.eaX rA rB) s →
    let ea := s.eaX rA rB
    (∃ t, exec (.dcbf rA rB) s = .next t ∧ Claims.OnlyDataCache s t ∧ Claims.CastsOut ea s t ∧ Claims.SameData s t ∧
      Claims.StaysCoherent s t ∧ t.dHit ea = none) ∧
    (∃ t, exec (.dcbst rA rB) s = .next t ∧ Claims.OnlyDataCache s t ∧ Claims.CastsOut ea s t ∧ Claims.SameData s t ∧
      Claims.StaysCoherent s t ∧ Claims.dirtyAt t ea = false ∧ (∀ a, t.dHit a = s.dHit a) ∧
      ∀ a, blockOf a = blockOf ea → t.mem.read a = s.dataByte a) ∧
    ∀ i, i = .dcbt rA rB ∨ i = .dcbtst rA rB →
      ∃ t, exec i s = .next t ∧ Claims.OnlyDataCache s t ∧ Claims.CastsOut ea s t ∧ Claims.SameData s t ∧
        Claims.StaysCoherent s t ∧ Claims.dirtyAt t ea = Claims.dirtyAt s ea ∧
        (regionBit s.spr.dccr ea = true → ocmHolds s.env.dataOcm ea = false → bit s.spr.ccr0 7 = false →
          (t.dHit ea).isSome = true) ∧
        (s.dHit ea = none → (t.dHit ea).isSome = true → Claims.Allocates ea s t) ∧
        (regionBit s.spr.dccr ea = false ∨ ocmHolds s.env.dataOcm ea = true → t = { s with synced := false, pc := s.pc + 4#32 })) ∧
  ∀ (rA rB : Reg) (s : State), s.calmData → s.dbg.dbcr0 = 0#32 → Claims.dirtyAt s (s.eaX rA rB) = true →
    let behind (k : MemKind) : Prop := ∃ a, blockOf a = blockOf (s.eaX rA rB) ∧ s.memKind a = k
    ∀ i, i = .dcbf rA rB ∨ i = .dcbst rA rB →
      (behind .absent → exec i s = .fault .writeToNothing) ∧
      (¬ behind .absent → behind .vacant → ∃ t, exec i s = .next t ∧
        ((t.dataMC = true ∧ t.pc = s.pc + 4#32 ∧ t.msr = s.msr) ∨
          (bit s.msr 19 = true ∧ t.dataMC = false ∧ t.pc = (s.spr.evpr &&& 0xFFFF0000#32) ||| 0x0200#32 ∧
            t.spr.srr2 = s.pc &&& 0xFFFFFFFC#32 ∧ t.spr.srr3 = s.msr ∧ t.msr = 0#32)))

/-- `dcbi` and `dccci` in privileged mode: the line of the address, or both lines of the class EA[19:26], are no longer in the
cache; memory and the other classes are as before. After `dccci` the class counts as invalidated since reset (R174). -/
def Obligations.InvalidationsDiscardLines : Prop :=
  ∀ (rA rB : Reg) (s : State), s.calmData → bit s.msr 17 = false →
    let ea := s.eaX rA rB
    (s.distinctLines (classIndex ea) →
      ∃ t, exec (.dcbi rA rB) s = .next t ∧
        t = { s with dcache := t.dcache, draws := t.draws, synced := false, pc := s.pc + 4#32 } ∧
        t.dHit ea = none ∧ ∀ a, blockOf a ≠ blockOf ea → t.dataByte a = s.dataByte a) ∧
    ∃ t, exec (.dccci rA rB) s = .next t ∧
      t = { s with dcache := t.dcache, dcacheReady := t.dcacheReady, draws := t.draws, synced := false, pc := s.pc + 4#32 } ∧
      (∀ j : BitVec 8, t.dcacheReady.getLsbD j.toNat = (s.dcacheReady.getLsbD j.toNat || decide (j = classIndex ea))) ∧
      (∀ w, ((t.dClass (classIndex ea)).line w).valid = false) ∧
      ∀ j, j ≠ classIndex ea → t.dClass j = s.dClass j

/-- `icbi`, `icbt`, and in privileged mode `iccci`: they change only the instruction cache, and keep what leaves it for the fetch
queue; after `icbi` the line is not in it, after `icbt` of cacheable storage (real mode, CCR0[FWOA] = 0, no bus error, not on-chip
memory) it is, after `iccci` no line is, and the cache counts as invalidated since reset. An `icbt` that needs the bus inside
Sequence 1, after CCR0[IPP, FWOA] was changed, stops (R950, log entry 16). -/
def Obligations.InstructionCacheInstructions : Prop :=
  ∀ (rA rB : Reg) (s : State), s.calmData →
    let ea := s.eaX rA rB
    (((s.iClass (classIndex ea)).wayA.valid = true → (s.iClass (classIndex ea)).wayB.valid = true →
        (s.iClass (classIndex ea)).wayA.tag ≠ (s.iClass (classIndex ea)).wayB.tag) →
      ∃ t, exec (.icbi rA rB) s = .next t ∧ SameMemory s t ∧
        t = { s with icache := t.icache, oldLines := t.oldLines, draws := t.draws, synced := false, pc := s.pc + 4#32 } ∧
        t.iHit ea ea = none) ∧
    (let fills : Prop := regionBit s.spr.iccr ea = true ∧ bit s.spr.ccr0 23 = false ∧
      (∀ a, blockOf a = blockOf ea → s.memKind a ≠ .vacant) ∧
      ocmHolds s.env.dataOcm ea = false ∧ ocmHolds s.env.instrOcm ea = false
    (s.ccr0Open = false → ∃ t, exec (.icbt rA rB) s = .next t ∧ SameMemory s t ∧
        t = { s with icache := t.icache, oldLines := t.oldLines, busFetch := t.busFetch, draws := t.draws, pc := s.pc + 4#32 } ∧
        (fills → (t.iHit ea ea).isSome = true)) ∧
    (s.ccr0Open = true → fills → s.iHit ea ea = none → exec (.icbt rA rB) s = .fault .ccr0OutsideSequence)) ∧
    (bit s.msr 17 = false → ∃ t, exec (.iccci rA rB) s = .next t ∧ SameMemory s t ∧
      t = { s with icache := t.icache, oldLines := t.oldLines, icacheReady := true, draws := t.draws, pc := s.pc + 4#32 } ∧
      ∀ j w, ((t.iClass j).line w).valid = false)

/-- `dcread` (aligned address) and `icread` in privileged mode: CCR0[CWS] selects the way; a word of its line, or with
CCR0[CIS] = 1 its tag, its dirty and valid bits and the class's LRU bit. `icread` fills ICDBDR. -/
def Obligations.CacheReads : Prop :=
  ∀ (rD rA rB : Reg) (s : State), s.calmData → bit s.msr 17 = false →
    let ea := s.eaX rA rB
    let d := if bit s.spr.ccr0 31 then (s.dClass (classIndex ea)).wayB else (s.dClass (classIndex ea)).wayA
    let i := if bit s.spr.ccr0 31 then (s.iClass (classIndex ea)).wayB else (s.iClass (classIndex ea)).wayA
    let n := ea.toNat % 32 / 4
    (ea.toNat % 4 = 0 →
      ∃ t, exec (.dcread rD rA rB) s = .next t ∧
        t = { s with gpr := t.gpr, draws := t.draws, pc := s.pc + 4#32 } ∧ SameMemory s t ∧
        (∀ q, q ≠ rD → t.reg q = s.reg q) ∧
        (bit s.spr.ccr0 27 = false → t.reg rD = d.data.extractLsb' (32 * (7 - n)) 32) ∧
        (bit s.spr.ccr0 27 = true → (t.reg rD).extractLsb' 13 19 = d.tag ∧ bit (t.reg rD) 26 = d.dirty ∧
          bit (t.reg rD) 27 = d.valid ∧ bit (t.reg rD) 31 = (s.dClass (classIndex ea)).lru)) ∧
    ∃ t, exec (.icread rA rB) s = .next t ∧
      t = { s with spr := { s.spr with icdbdr := t.spr.icdbdr }, stale := t.stale, draws := t.draws, pc := s.pc + 4#32 } ∧
      SameMemory s t ∧
      (bit s.spr.ccr0 27 = false → t.spr.icdbdr = i.data.extractLsb' (32 * (7 - n)) 32) ∧
      (bit s.spr.ccr0 27 = true → t.spr.icdbdr.extractLsb' 10 22 = i.tag ∧ bit t.spr.icdbdr 27 = i.valid ∧
        bit t.spr.icdbdr 31 = (s.iClass (classIndex ea)).lru)

/-- `tlbwe`, `tlbre`, `tlbia`, `tlbsync` in privileged mode: one half of the entry that rA[26:31] names is written or read, the
other entries as before; `tlbre` of TLBHI loads PID with the TID. An entry counts as written since reset (U37) after `tlbwe` of its
TLBHI, every entry after `tlbia`. The places of the bits of TLBHI are the spec's own decision D18,
which the model follows (log entry 28). A `tlbwe` that makes a page cacheable before both caches were invalidated after reset is left
out (it stops, `InvalidFormsStop`). -/
def Obligations.TlbEntriesAreWrittenAndRead : Prop :=
  ∀ (rD rA : Reg) (ws : BitVec 5) (s : State), s.settled → bit s.msr 17 = false →
    let i := (s.reg rA).extractLsb' 0 6
    let e := s.tlbEntry i
    (ws.toNat ≤ 1 → ¬ Claims.cachesTooEarly (Claims.tlbWritten ws rD rA s) s → ∃ t, exec (.tlbwe rD rA ws) s = .next t ∧
      t = { s with utlb := t.utlb, tlbReady := t.tlbReady, itlbOld := t.itlbOld, dtlbOld := t.dtlbOld, pc := s.pc + 4#32 } ∧
      (∀ j : BitVec 6, t.tlbReady.getLsbD j.toNat = (s.tlbReady.getLsbD j.toNat || decide (ws = 0#5 ∧ j = i))) ∧
      ∀ j, t.tlbEntry j = if j = i then Claims.tlbWritten ws rD rA s else s.tlbEntry j) ∧
    (∃ t, exec (.tlbre rD rA 1#5) s = .next t ∧ t = { s with gpr := t.gpr, pc := s.pc + 4#32 } ∧
      (∀ q, q ≠ rD → t.reg q = s.reg q) ∧ Claims.tlbLow e (t.reg rD) = e) ∧
    (∃ t, exec (.tlbre rD rA 0#5) s = .next t ∧
      t = { s with gpr := t.gpr, spr := { s.spr with pid := t.spr.pid }, stale := t.stale, draws := t.draws,
                   pc := s.pc + 4#32 } ∧
      (∀ q, q ≠ rD → t.reg q = s.reg q) ∧ Claims.tlbHigh e (t.reg rD) t.spr.pid = e ∧
      t.spr.pid.extractLsb' 8 24 = s.spr.pid.extractLsb' 8 24) ∧
    (∃ t, exec .tlbia s = .next t ∧
      t = { s with utlb := t.utlb, tlbReady := t.tlbReady, itlbOld := t.itlbOld, dtlbOld := t.dtlbOld, pc := s.pc + 4#32 } ∧
      (∀ j : BitVec 6, t.tlbReady.getLsbD j.toNat = true) ∧
      ∀ j, t.tlbEntry j = { s.tlbEntry j with valid := false }) ∧
    exec .tlbsync s = .next { s with pc := s.pc + 4#32 }

/-- `tlbsx` in privileged mode: the index of the one entry that translates the address, or an open value if there is none; CR0[EQ]
says which if Rc = 1; two such entries are a programming error (R225). -/
def Obligations.TlbSearchFindsTheEntry : Prop :=
  ∀ (rD rA rB : Reg) (rc : Bool) (s : State), s.settled → bit s.msr 17 = false →
    let ea := s.eaX rA rB
    let result (found : Bool) (t : State) : Prop :=
      t = { s with gpr := t.gpr, cr := t.cr, draws := t.draws, pc := s.pc + 4#32 } ∧ SameMemory s t ∧
      (∀ q, q ≠ rD → t.reg q = s.reg q) ∧ (rc = false → t.cr = s.cr) ∧
      (rc = true → WritesField 0#3 false false found (bit s.xer 0) s t)
    ((∀ i, ¬ Claims.translates s ea i) → ∃ t, exec (.tlbsx rD rA rB rc) s = .next t ∧ result false t) ∧
    (∀ i, (∀ j, Claims.translates s ea j ↔ j = i) →
      ∃ t, exec (.tlbsx rD rA rB rc) s = .next t ∧ result true t ∧ t.reg rD = i.setWidth 32) ∧
    (∀ i j, i ≠ j → Claims.translates s ea i → Claims.translates s ea j →
      exec (.tlbsx rD rA rB rc) s = .fault .multipleSearchHits)

/-! ### Address translation and protection (21_translation.md), and the interrupts they cause -/

namespace Sys2Proof.Claims

/-- Data accesses are translated; the UTLB alone decides, and no debug event stands in the way. -/
structure virtualData (s : State) : Prop where
  settled : s.stale = []
  virtual : bit s.msr 27 = true
  shadow : s.dtlbOld = []
  dbcr1 : s.dbg.dbcr1 = 0#32
  dbcr0 : s.dbg.dbcr0 = 0#32

/-- Entry `i` alone translates `ea`, and every bit of its RPN below the page size is 0. -/
def onlyEntry (s : State) (ea : Word) (i : BitVec 6) : Prop :=
  (∀ j, translates s ea j ↔ j = i) ∧ (s.tlbEntry i).rpnUnused = false

/-- The zone field of ZPR that an entry selects: two bits, the first the more significant (R230). -/
def zone (s : State) (e : TlbEntry) : Nat :=
  2 * (bit s.spr.zpr (2 * e.zsel.toNat)).toNat + (bit s.spr.zpr (2 * e.zsel.toNat + 1)).toNat

/-- No access at all (R232). -/
def noAccess (s : State) (e : TlbEntry) : Prop := bit s.msr 17 = true ∧ zone s e = 0

/-- WR and EX do not count (R232). -/
def fullAccess (s : State) (e : TlbEntry) : Prop :=
  (bit s.msr 17 = true ∧ zone s e = 3) ∨ (bit s.msr 17 = false ∧ (zone s e = 2 ∨ zone s e = 3))

/-- An instruction that accesses data, or a cache instruction that is checked as one that does (R236): its address, and whether it is a
store. -/
structure Accessing where
  instr : Instr
  ea : Word
  store : Bool
  deriving DecidableEq, Repr

/-- The loads and stores of a valid form that access memory (strings of XER[TBC] bytes only if there are any), and the cache instructions
that take the interrupts of R236: `dcbf`, `dcbst`, `icbi` as loads, `dcbz` and in privileged mode `dcbi` and `dccci` as stores. -/
def accessing (rD rA rB nb : Reg) (d : BitVec 16) (s : State) : List Accessing :=
  (loadForms rD rA rB d s).map (fun p => ⟨p.1.instr, p.1.ea, false⟩) ++
  (storeForms rD rA rB d s).map (fun p => ⟨p.1.instr, p.1.ea, true⟩) ++
  [⟨.lwarx rD rA rB, s.eaX rA rB, false⟩, ⟨.stwcx rD rA rB, s.eaX rA rB, true⟩,
   ⟨.lmw rD rA d, s.eaD rA d, false⟩, ⟨.stmw rD rA d, s.eaD rA d, true⟩,
   ⟨.lswi rD rA nb, s.eaR rA, false⟩, ⟨.stswi rD rA nb, s.eaR rA, true⟩] ++
  (if s.xer.toNat % 128 = 0 then []
    else [⟨.lswx rD rA rB, s.eaX rA rB, false⟩, ⟨.stswx rD rA rB, s.eaX rA rB, true⟩]) ++
  [⟨.dcbf rA rB, s.eaX rA rB, false⟩, ⟨.dcbst rA rB, s.eaX rA rB, false⟩, ⟨.icbi rA rB, s.eaX rA rB, false⟩,
   ⟨.dcbz rA rB, s.eaX rA rB, true⟩] ++
  if bit s.msr 17 then [] else [⟨.dcbi rA rB, s.eaX rA rB, true⟩, ⟨.dccci rA rB, s.eaX rA rB, true⟩]

/-- The cache instructions that do nothing where they would take such an interrupt (R236). -/
def hints (rA rB : Reg) : List Instr := [.dcba rA rB, .dcbt rA rB, .dcbtst rA rB, .icbt rA rB]

/-- The data-storage interrupt at an access, with ESR[DST], ESR[DIZ] and ESR[U0F]. -/
def takesDataStorage (a : Accessing) (diz u0f : Bool) (s : State) : Prop :=
  ∃ t, exec a.instr s = .next t ∧
    Enters 0x0300#32 (s.pc &&& 0xFFFFFFFC#32)
      ((s.spr.esr &&& 0x80000000#32) ||| oneBit 8 a.store ||| oneBit 9 diz ||| oneBit 16 u0f) a.ea { s with synced := false } t

end Sys2Proof.Claims

/-- An entry hits (R224) if it is valid, its TAG agrees with the address in the first n = 22 - 2 × SIZE bits, and its TID is 0 or
the process; the physical address (R226) is the first n bits of RPN, then EA[n:31]. Where two entries translate an address, a data
access, a fetch and a fetch ahead of it stop (R225: undefined behaviour, treated as a fault). -/
def Obligations.TlbEntriesHitAndTranslate : Prop :=
  (∀ (k : AccKind) (ea : Word) (i j : BitVec 6) (s : State), s.settled → i ≠ j → Claims.translates s ea i → Claims.translates s ea j →
    (bit s.msr 27 = true → s.dtlbOld = [] → dataCheck k ea s = .fault .multipleTlbHits) ∧
    (bit s.msr 26 = true → s.itlbOld = [] → fetchCheck ea s = .fault .multipleTlbHits ∧
      aheadCheck ea s = (none, { s with aheadFault := some .multipleTlbHits }))) ∧
  ∀ (e : TlbEntry) (pid : BitVec 8) (ea : Word),
    (e.hits pid ea = true ↔
      e.valid = true ∧ (∀ k, k < 22 - 2 * e.size.toNat → e.tag.getLsbD (21 - k) = bit ea k) ∧ (e.tid = 0#8 ∨ e.tid = pid)) ∧
    ∀ k, k < 32 → bit (e.physical ea) k = if k < 22 - 2 * e.size.toNat then e.rpn.getLsbD (21 - k) else bit ea k

/-- The permission function of R233 over the zones of R232, for a load, a store and a fetch that one entry translates. That a store to
a read-only page with U0 = 1 reports the read-only cause alone, and a fetch from a page that is no-execute and guarded one cause, and
that ESR[DIZ] = 0 for a read-only page, is the spec's own decision D13 (log entry 28). An address that
the platform decodes as on-chip memory goes there (D6), and its page must have RPN = EPN (R238; the fault is the model's, log entry
29). -/
def Obligations.PermissionsFollowR233 : Prop :=
  ∀ (ea : Word) (i : BitVec 6) (s : State), s.settled → Claims.onlyEntry s ea i →
    let e := s.tlbEntry i
    let permitted (chip : Bool) (b : State) : Checked :=
      if chip = true ∧ e.physical ea ≠ ea then .fault .ocmPageTranslated
      else .ok { ra := e.physical ea, attr := { w := e.w, i := e.i || chip, g := e.g, u0 := e.u0, e := e.endian }, ocm := chip } b
    (bit s.msr 27 = true → s.dtlbOld = [] →
      let x := permitted (ocmHolds s.env.dataOcm ea) s
      (Claims.noAccess s e →
        dataCheck .load ea s = .exc (.dataStorage false true false ea) s ∧
        dataCheck .store ea s = .exc (.dataStorage true true false ea) s) ∧
      (¬ Claims.noAccess s e →
        dataCheck .load ea s = x ∧
        (e.wr = false ∧ ¬ Claims.fullAccess s e → dataCheck .store ea s = .exc (.dataStorage true false false ea) s) ∧
        (e.wr = true ∨ Claims.fullAccess s e →
          dataCheck .store ea s =
            if e.u0 = true ∧ bit s.spr.ccr0 14 = true then .exc (.dataStorage true false true ea) s else x))) ∧
    (bit s.msr 26 = true → s.itlbOld = [] →
      let x := permitted (ocmHolds s.env.instrOcm ea) s
      (Claims.noAccess s e → fetchCheck ea s = .exc (.instrStorage true) s) ∧
      (¬ Claims.noAccess s e →
        ((e.ex = false ∧ ¬ Claims.fullAccess s e) ∨ e.g = true → fetchCheck ea s = .exc (.instrStorage false) s) ∧
        ((e.ex = true ∨ Claims.fullAccess s e) → e.g = false → fetchCheck ea s = x)))

/-- A load or a store of a valid form whose first byte no entry translates takes the data-TLB-miss interrupt: DEAR holds the
address, ESR[DST] says store; nothing is loaded, stored or updated. Likewise the cache instructions, as R236 has them: `dcbf`, `dcbst`,
`icbi` as loads, `dcbz`, `dcbi`, `dccci` as stores, `dcread` and `icread` as loads (these four privileged but `dcbz`); `dcba`, `dcbt`,
`dcbtst` and `icbt` do nothing there. -/
def Obligations.DataTlbMissIsTaken : Prop :=
  ∀ (rD rA rB nb : Reg) (d : BitVec 16) (s : State), Claims.virtualData s →
    let misses (i : Instr) (ea : Word) (store : Bool) (b : State) : Prop := ∃ t, exec i s = .next t ∧
      Claims.Enters 0x1100#32 (s.pc &&& 0xFFFFFFFC#32) ((s.spr.esr &&& 0x80000000#32) ||| oneBit 8 store) ea b t
    (∀ a ∈ Claims.accessing rD rA rB nb d s, (∀ i, ¬ Claims.translates s a.ea i) →
      misses a.instr a.ea a.store { s with synced := false }) ∧
    ((∀ i, ¬ Claims.translates s (s.eaX rA rB) i) →
      (bit s.msr 17 = false →
        misses (.dcread rD rA rB) (s.eaX rA rB) false s ∧ misses (.icread rA rB) (s.eaX rA rB) false s) ∧
      ∀ i ∈ Claims.hints rA rB, exec i s = .next { s with pc := s.pc + 4#32 })

/-- A load or a store of a valid form, or a cache instruction that R236 treats as one (`dcbf`, `dcbst`, `icbi`; `dcbz`, and in
privileged mode `dcbi` and `dccci`), at a page without access (user mode, zone 0) takes the data-storage interrupt with ESR[DIZ]; a store
to a read-only page takes it without: that ESR[DIZ] = 0 there, and that the read-only cause is the one reported, is the spec's own
decision D13 (log entry 28). A store to storage with U0 = 1 while CCR0[U0XE] = 1 takes it with ESR[U0F], in virtual mode by the page's
U0 where nothing else forbids the store, and in real mode by SU0R (R155, R767). A read-only page and U0 do not stop `dcbf`, `dcbst` and
`icbi`: of lines that no cache holds they do nothing. `dcba`, `dcbt`, `dcbtst` and `icbt` do nothing where they would be
forbidden. -/
def Obligations.DataStorageInterruptIsTaken : Prop :=
  (∀ (rD rA rB nb : Reg) (d : BitVec 16) (i : BitVec 6) (s : State), Claims.virtualData s →
    let e := s.tlbEntry i
    let writable : Prop := e.wr = true ∨ Claims.fullAccess s e
    let markedU0 : Prop := e.u0 = true ∧ bit s.spr.ccr0 14 = true
    (∀ a ∈ Claims.accessing rD rA rB nb d s, Claims.onlyEntry s a.ea i →
      (Claims.noAccess s e → Claims.takesDataStorage a true false s) ∧
      (¬ Claims.noAccess s e → a.store = true → ¬ writable → Claims.takesDataStorage a false false s) ∧
      (¬ Claims.noAccess s e → a.store = true → writable → markedU0 → Claims.takesDataStorage a false true s)) ∧
    let ea := s.eaX rA rB
    (Claims.onlyEntry s ea i →
      (Claims.noAccess s e → ∀ h ∈ Claims.hints rA rB, exec h s = .next { s with pc := s.pc + 4#32 }) ∧
      (¬ writable ∨ markedU0 → exec (.dcba rA rB) s = .next { s with pc := s.pc + 4#32 }) ∧
      (¬ Claims.noAccess s e → ocmHolds s.env.dataOcm ea = false → s.dHit (e.physical ea) = none →
        s.iHit ea (e.physical ea) = none → ∀ c, c = .dcbf rA rB ∨ c = .dcbst rA rB ∨ c = .icbi rA rB →
          exec c s = .next { s with synced := false, pc := s.pc + 4#32 }))) ∧
  ∀ (rD rA rB nb : Reg) (d : BitVec 16) (s : State), s.settled → bit s.msr 27 = false → bit s.spr.ccr0 14 = true →
    s.dbg.dbcr0 = 0#32 →
    (∀ a ∈ Claims.accessing rD rA rB nb d s, a.store = true → regionBit s.spr.su0r a.ea = true →
      Claims.takesDataStorage a false true s) ∧
    (regionBit s.spr.su0r (s.eaX rA rB) = true → exec (.dcba rA rB) s = .next { s with pc := s.pc + 4#32 })

/-- `lbzx` and `stbx` in virtual mode, to a caching-inhibited page with access: the byte at the physical address. -/
def Obligations.ByteAccessesAreTranslated : Prop :=
  ∀ (rD rA rB : Reg) (i : BitVec 6) (s : State), Claims.virtualData s → s.mem.wf = true → s.dfb = none →
    let ea := s.eaX rA rB
    let e := s.tlbEntry i
    let ra := e.physical ea
    Claims.onlyEntry s ea i → ¬ Claims.noAccess s e → e.i = true → s.dHit ra = none → s.memKind ra = .ram →
    s.dataMC = false → ocmHolds s.env.dataOcm ea = false →
    (s.blocksAnswer ra 1 → ∃ t, exec (.lbzx rD rA rB) s = .next t ∧ Claims.OnlyLoads s t ∧
      WritesReg rD ((s.mem.read ra).setWidth 32) s t) ∧
    (e.wr = true ∨ Claims.fullAccess s e → e.u0 = false →
      ∃ t, exec (.stbx rD rA rB) s = .next t ∧ Claims.OnlyStores s t ∧ SameRegs s t ∧
        ∀ a, t.mem.read a = if a = ra then (s.reg rD).setWidth 8 else s.mem.read a)

/-- Accesses that must be aligned: `lwarx`, `stwcx.` and `dcread` (privileged) of a misaligned word, and `dcbz` in storage that is
not cacheable write-back storage, take the alignment interrupt with the address in DEAR. That `stwcx.` takes it with RESERVE = 0
too is the spec's own decision D15 (log entry 28). That on-chip memory is such storage for `dcbz`, also where DCCR and DCWR make its
region cacheable write-back, rests on the spec's decision D6 of 92_eei_decisions.md (accesses to it are non-cacheable) and on the model's
choice of log entry 29: R159 and R707 name only caching-inhibited, DCCR = 0 and write-through storage. (`begun`: an access has begun.) -/
def Obligations.AlignmentInterruptIsTaken : Prop :=
  ∀ (rD rA rB : Reg) (s : State), s.calmData → s.dbg.dbcr0 = 0#32 →
    let stops (i : Instr) (b : State) : Prop := ∃ t, exec i s = .next t ∧
      Claims.Enters 0x0600#32 (s.pc &&& 0xFFFFFFFC#32) s.spr.esr (s.eaX rA rB) b t
    let begun : State := { s with synced := false }
    ((s.eaX rA rB).toNat % 4 ≠ 0 →
      stops (.lwarx rD rA rB) begun ∧ stops (.stwcx rD rA rB) begun ∧ (bit s.msr 17 = false → stops (.dcread rD rA rB) s)) ∧
    (¬ s.writeBackRegion (s.eaX rA rB) → stops (.dcbz rA rB) begun)

/-- Aligned words in cacheable write-back storage that the data cache holds: `lwzx` reads the line, `stwx` writes it and not
memory, and makes it dirty. The line stays where it is, and the other way of its class is the least recently used (R161). -/
def Obligations.CacheHitsServeWords : Prop :=
  ∀ (rD rA rB : Reg) (s : State), s.calmData →
    let ea := s.eaX rA rB
    let uses (t : State) : Prop := (∀ a, t.dHit a = s.dHit a) ∧
      ∀ w, s.dHit ea = some w → (t.dClass (classIndex ea)).lru = (w == Way.a)
    s.writeBackRegion ea → regionBit s.spr.sler ea = false → (s.dHit ea).isSome = true → ea.toNat % 4 = 0 →
    (∃ t, exec (.lwzx rD rA rB) s = .next t ∧
      t = { s with gpr := t.gpr, dcache := t.dcache, synced := false, pc := s.pc + 4#32 } ∧
      SameMemory s t ∧ WritesReg rD (BitVec.ofNat 32 (s.number false ea 4)) s t ∧
      uses t ∧ Claims.dirtyAt t ea = Claims.dirtyAt s ea) ∧
    ∃ t, exec (.stwx rD rA rB) s = .next t ∧ t = { s with dcache := t.dcache, synced := false, pc := s.pc + 4#32 } ∧
      uses t ∧ Claims.dirtyAt t ea = true ∧ ∀ a, t.dataByte a =
        if (a - ea).toNat < 4 then memByte false 4 (s.reg rD) (a - ea).toNat else s.dataByte a

/-! ### Timers, debug, reset (61_timers_debug.md, 70_reset_and_hazards.md) -/

namespace Sys2Proof.Claims

/-- An address lies in the range of two compare registers, inclusive or exclusive (R872, R875). -/
def inRange (exclusive : Bool) (lo hi a : Word) : Prop :=
  if exclusive then a.toNat < lo.toNat ∨ hi.toNat ≤ a.toNat else lo.toNat ≤ a.toNat ∧ a.toNat < hi.toNat

/-- DBSR bit `k` is set by instruction address compare at the pc (R872): bits 5, 6 for IAC1, IAC2, bits 12, 13 for IAC3, IAC4; the
enables are DBCR0[8, 9, 12, 13], the ranges DBCR0[10, 14], their senses DBCR0[11, 15]. -/
def iacEvent (s : State) (k : Nat) : Prop :=
  let pair (range sense enable : Nat) (lo hi own : Word) : Prop :=
    bit s.dbg.dbcr0 enable = true ∧
      if bit s.dbg.dbcr0 range then inRange (bit s.dbg.dbcr0 sense) lo hi s.pc
      else own.extractLsb' 2 30 = s.pc.extractLsb' 2 30
  (k = 5 ∧ pair 10 11 8 s.dbg.iac1 s.dbg.iac2 s.dbg.iac1) ∨ (k = 6 ∧ pair 10 11 9 s.dbg.iac1 s.dbg.iac2 s.dbg.iac2) ∨
    (k = 12 ∧ pair 14 15 12 s.dbg.iac3 s.dbg.iac4 s.dbg.iac3) ∨ (k = 13 ∧ pair 14 15 13 s.dbg.iac3 s.dbg.iac4 s.dbg.iac4)

/-- Address `a` matches DACn: the range with DBCR1[DA12] = 1, else by DBCR1[DnS] the byte, the halfword, the word or the line
(R875). -/
def dacMatches (two : Bool) (a : Word) (s : State) : Prop :=
  if bit s.dbg.dbcr1 8 then inRange (bit s.dbg.dbcr1 9) s.dbg.dac1 s.dbg.dac2 a
  else
    let r := (if two then s.dbg.dac2 else s.dbg.dac1).toNat
    let size := (if two then bits s.dbg.dbcr1 6 2 else bits s.dbg.dbcr1 4 2).toNat
    let unit := if size = 0 then 1 else if size = 1 then 2 else if size = 2 then 4 else 32
    a.toNat / unit = r / unit

/-- The byte enables of DVCn. -/
def dvcEnables (two : Bool) (s : State) : BitVec 4 := if two then bits s.dbg.dbcr1 20 4 else bits s.dbg.dbcr1 16 4

/-- DBSR bits 7 to 10 are DR1, DW1, DR2, DW2; DBCR1 bits 0 to 3 enable D1R, D2R, D1W, D2W. -/
def dataCompare (write two : Bool) (a : Word) (s : State) (k : Nat) : Prop :=
  k = 7 + (if two then 2 else 0) + (if write then 1 else 0) ∧
    bit s.dbg.dbcr1 ((if two then 1 else 0) + (if write then 2 else 0)) = true ∧ dacMatches two a s

/-- DBSR bit `k` is set by a DAC event of one access (R875): only of a register whose DVC is not enabled. -/
def dacEvent (write : Bool) (a : Word) (s : State) (k : Nat) : Prop :=
  ∃ two, dataCompare write two a s k ∧ dvcEnables two s = 0#4

/-- A word matches DVCn in the enabled bytes, by DBCR1[DVnM]: 1 all of them, 2 one of them, 3 both of a halfword (R876). -/
def dvcMatches (two : Bool) (v : Word) (s : State) : Prop :=
  let r := if two then s.dbg.dvc2 else s.dbg.dvc1
  let mode := (if two then bits s.dbg.dbcr1 14 2 else bits s.dbg.dbcr1 12 2).toNat
  let on (i : Nat) : Prop := (dvcEnables two s).getLsbD (3 - i) = true
  let same (i : Nat) : Prop := v.extractLsb' (8 * (3 - i)) 8 = r.extractLsb' (8 * (3 - i)) 8
  let m (i : Nat) : Prop := on i ∧ same i
  (mode = 1 ∧ ∀ i, i < 4 → on i → same i) ∨ (mode = 2 ∧ ∃ i, i < 4 ∧ m i) ∨
    (mode = 3 ∧ ((m 0 ∧ m 1) ∨ (m 2 ∧ m 3)))

/-- DBSR bit `k` is set by a DVC event of a word access. -/
def dvcEvent (write : Bool) (a v : Word) (s : State) (k : Nat) : Prop :=
  ∃ two, dataCompare write two a s k ∧ dvcEnables two s ≠ 0#4 ∧ dvcMatches two v s

/-- The debug interrupt taken with return address `ret`, its event recorded (R870, R760, R761). -/
def TakesDebug (ev ret : Word) (s t : State) : Prop :=
  EntersCritical 0x2000#32 (ret &&& 0xFFFFFFFC#32) s.spr.esr 0x00001000#32
    { s with
      dbg := { s.dbg with dbsr := s.dbg.dbsr ||| ev }
      tmr := { s.tmr with frozen := s.tmr.frozen || bit s.dbg.dbcr0 31 } } t

end Sys2Proof.Claims

/-- A tick that is neither a FIT nor a watchdog time-out: the time base counts as 64 bits, and the PIT steps (R850, R852): from 1 it
sets TSR[PIS] and goes to its reload value or 0, from a greater number it counts down, at 0 it stays. -/
def Obligations.TickCountsTheTimeBaseAndThePit : Prop :=
  ∀ s : State, s.tmr.frozen = false → ¬ Claims.rising (23 - 4 * (s.tmr.tcr.extractLsb' 24 2).toNat) s.tmr.tbl →
    ¬ Claims.rising (15 - 4 * (s.tmr.tcr.extractLsb' 30 2).toNat) s.tmr.tbl →
    ∃ t : TimerRegs, tick s = { s with tmr := { s.tmr with tbu := t.tbu, tbl := t.tbl, pit := t.pit, tsr := t.tsr } } ∧
      t.tbu.toNat * 2 ^ 32 + t.tbl.toNat = (s.tmr.tbu.toNat * 2 ^ 32 + s.tmr.tbl.toNat + 1) % 2 ^ 64 ∧
      t.pit.toNat = (if s.tmr.pit.toNat = 1 then (if bit s.tmr.tcr 9 then s.tmr.pitReload.toNat else 0)
        else s.tmr.pit.toNat - 1) ∧
      ∀ k, k < 32 → bit t.tsr k = (bit s.tmr.tsr k || decide (k = 4 ∧ s.tmr.pit.toNat = 1))

/-- PIT events, FIT and watchdog time-outs at a tick (R852 to R854), together or alone: TSR[PIS] is set when the PIT goes from 1;
TSR[FIS] when the TBL bit that TCR[FP] selects rises; when the bit that TCR[WP] selects rises, TSR[ENW] is set, or if it is 1
TSR[WIS], whatever TCR[WRC]. The premise leaves out the third watchdog time-out, which resets. -/
def Obligations.TimeoutsSetTheTimerStatus : Prop :=
  ∀ s : State, s.tmr.frozen = false →
    let watchdog : Prop := Claims.rising (15 - 4 * (s.tmr.tcr.extractLsb' 30 2).toNat) s.tmr.tbl
    ¬ (watchdog ∧ bit s.tmr.tsr 0 = true ∧ bit s.tmr.tsr 1 = true ∧ (bit s.tmr.tcr 2 = true ∨ bit s.tmr.tcr 3 = true)) →
    let pis (k : Nat) : Prop := k = 4 ∧ s.tmr.pit = 1#32
    let fis (k : Nat) : Prop := k = 5 ∧ Claims.rising (23 - 4 * (s.tmr.tcr.extractLsb' 24 2).toNat) s.tmr.tbl
    let enw (k : Nat) : Prop := k = 0 ∧ watchdog
    let wis (k : Nat) : Prop := k = 1 ∧ bit s.tmr.tsr 0 = true ∧ watchdog
    ∃ t, tick s = { s with tmr := { (tick s).tmr with tsr := t } } ∧
      ∀ k, k < 32 → (bit t k = true ↔ bit s.tmr.tsr k = true ∨ pis k ∨ fis k ∨ enw k ∨ wis k)

/-- The third watchdog time-out (TSR[ENW] = TSR[WIS] = 1) resets the processor by TCR[WRC], and frozen timers do not tick. -/
def Obligations.WatchdogResetsAndFrozenTimersStand : Prop :=
  ∀ (k : ResetKind) (s : State),
    (s.tmr.frozen = true → tick s = s) ∧
    (s.tmr.frozen = false → Claims.rising (15 - 4 * (s.tmr.tcr.extractLsb' 30 2).toNat) s.tmr.tbl →
      bit s.tmr.tsr 0 = true → bit s.tmr.tsr 1 = true → s.tmr.tcr.extractLsb' 28 2 = Claims.kindCode k →
      Claims.AfterReset (Claims.kindCode k) true (tick s) ∧ (tick s).mem = s.mem ∧ (tick s).spr.pvr = s.spr.pvr)

/-- What a debug event does (R870, R871): its bits, IDE if MSR[DE] = 0, and the timer freeze are recorded; then, by DBCR0 as it is in
force (the model's reading of R662, log entry 11), the processor stops in external mode, takes the debug interrupt in internal mode
with MSR[DE] = 1, waits in debug-wait mode, or goes on. And when events occur, in the second part with every register in force:
instruction address compare where no range toggles (R872), data address compare of one address (R875), data value compare of one word
in modes AND, OR, AND-OR (R876); in internal mode with MSR[DE] = 1 a taken branch (R877), a trap (R880), a completed instruction
(R879), a noncritical interrupt (R881) and the UDE signal (R882) take the debug interrupt; in internal mode with MSR[DE] = 0 and
external mode off a taken branch and a completed instruction set no DBSR bit (R871) and freeze the timers (R878); with both modes off a
trap records its event and enters the program interrupt, in debug-wait mode too (R398; R880 has it otherwise, log entry 32). -/
def Obligations.DebugEventsFollowTheMode : Prop :=
  (∀ (write : Bool) (a v : Word) (s : State), s.settled →
    (bit s.dbg.dbcr0 16 = false → bit s.dbg.dbcr0 17 = false →
      ((∀ k, ¬ Claims.iacEvent s k) → iacCheck s = .goOn s) ∧
      ∀ ev : Word, (∀ k, k < 32 → (bit ev k = true ↔ Claims.iacEvent s k)) → ev ≠ 0#32 →
        iacCheck s = debugEvent ev s.pc s) ∧
    ((∀ k, ¬ Claims.dacEvent write a s k) → dacCheck write [a] s = .ok () s) ∧
    (∀ ev : Word, (∀ k, k < 32 → (bit ev k = true ↔ Claims.dacEvent write a s k)) → ev ≠ 0#32 →
      dacCheck write [a] s = (debugEvent ev s.pc s).toRes) ∧
    (bits s.dbg.dbcr1 12 2 ≠ 0#2 → bits s.dbg.dbcr1 14 2 ≠ 0#2 →
      ∃ x, (dvcCheck write a (some v) s).2 = { s with dvcBits := x } ∧
        ∀ k, k < 32 → (bit x k = true ↔ bit s.dvcBits k = true ∨ Claims.dvcEvent write a v s k)) ∧
    (bit s.dbg.dbcr0 0 = false → bit s.dbg.dbcr0 1 = true → bit s.msr 22 = true →
      (bit s.dbg.dbcr0 5 = true → ∀ (li : BitVec 24) (aa lk : Bool),
        ∃ t, exec (.b li aa lk) s = .next t ∧ Claims.TakesDebug (oneBit 1 true) s.pc s t) ∧
      (bit s.dbg.dbcr0 7 = true → ∀ rA rB : Reg, Claims.traps 31#5 (s.reg rA) (s.reg rB) →
        ∃ t, exec (.tw 31#5 rA rB) s = .next t ∧ Claims.TakesDebug (oneBit 3 true) s.pc s t) ∧
      (bit s.dbg.dbcr0 4 = true → s.dvcBits = 0#32 →
        Claims.TakesDebug (oneBit 0 true) s.pc s (completionEvents true s)) ∧
      (bit s.dbg.dbcr0 6 = true → ∀ (e : Exc) (ret : Word), e.critical = false →
        Claims.TakesDebug (oneBit 2 true) (interruptEntry e ret s).pc (interruptEntry e ret s) (takeInterrupt e ret s)) ∧
      (s.env.ude = true → ∃ t, debugRequest s = .halted t ∧ Claims.TakesDebug (oneBit 4 true) s.pc s t)) ∧
    (let frozen : TimerRegs := { s.tmr with frozen := s.tmr.frozen || bit s.dbg.dbcr0 31 }
    (bit s.dbg.dbcr0 0 = false → bit s.dbg.dbcr0 1 = true → bit s.msr 22 = false →
        (bit s.dbg.dbcr0 5 = true → ∀ (li : BitVec 24) (aa lk : Bool),
          Claims.Branches (.b li aa lk) true (BitVec.ofInt 32 (4 * li.toInt + if aa then 0 else s.pc.toNat)) s.ctr lk
            { s with tmr := frozen } s) ∧
        (bit s.dbg.dbcr0 4 = true → s.dvcBits = 0#32 → completionEvents false s = { s with tmr := frozen })) ∧
      (bit s.dbg.dbcr0 0 = false → bit s.dbg.dbcr0 1 = false → bit s.dbg.dbcr0 7 = true → bit s.dbg.dbcr0 6 = false →
        ∀ rA rB : Reg, Claims.traps 31#5 (s.reg rA) (s.reg rB) →
          ∃ t, exec (.tw 31#5 rA rB) s = .next t ∧
            Claims.Enters 0x0700#32 (s.pc &&& 0xFFFFFFFC#32) (Claims.esrOnly s 6) s.spr.dear
              { s with dbg := { s.dbg with dbsr := s.dbg.dbsr ||| oneBit 3 true ||| oneBit 11 (!bit s.msr 22) }, tmr := frozen } t))) ∧
  ∀ (ev ret : Word) (s : State),
    let t := (debugEvent ev ret s).state
    let edm := bit (s.inForce .dbcr0) 0
    let idm := bit (s.inForce .dbcr0) 1
    let de := bit s.msr 22
    (∀ k, k < 32 → bit t.dbg.dbsr k = (bit s.dbg.dbsr k || bit ev k || (!de && decide (k = 11)))) ∧
    (t.tmr.frozen = true ↔ s.tmr.frozen = true ∨ bit (s.inForce .dbcr0) 31 = true) ∧
    (edm = true → t.run = .stopped ∧ t.pc = s.pc ∧ t.msr = s.msr) ∧
    (edm = false → idm = true → de = true → t.run = s.run ∧ t.pc = (s.spr.evpr &&& 0xFFFF0000#32) ||| 0x2000#32 ∧
      t.spr.srr2 = ret &&& 0xFFFFFFFC#32 ∧ t.spr.srr3 = s.msr ∧ t.msr = s.msr &&& 0x00001000#32) ∧
    (edm = false → idm = false → bit s.msr 21 = true → t.run = .debugWait ∧ t.pc = s.pc ∧ t.msr = s.msr) ∧
    (edm = false → (idm = true → de = false) → (idm = false → bit s.msr 21 = false) →
      t = { s with dbg := { s.dbg with dbsr := t.dbg.dbsr }, tmr := { s.tmr with frozen := t.tmr.frozen } })

/-- What the spec gives at reset (R137), at power-up as a system reset, and after a write of DBCR0[RST] in privileged mode, which
leaves memory and PVR. -/
def Obligations.ResetGivesTheSpecifiedValues : Prop :=
  Claims.AfterReset 3#2 false State.reset ∧
  ∀ (rS : Reg) (k : ResetKind) (s : State), s.settled → bit s.msr 17 = false →
    (s.reg rS).extractLsb' 28 2 = Claims.kindCode k →
    ∃ t, exec (.mtspr 1010#10 rS) s = .next t ∧ Claims.AfterReset (Claims.kindCode k) false t ∧ t.mem = s.mem ∧
      t.spr.pvr = s.spr.pvr

/-! ### A step (60_exceptions.md R755, R796, R800) -/

namespace Sys2Proof.Claims

/-- The four bytes of a memory from an address on, as a big-endian word. -/
def wordIn (m : Memory) (a : Word) : Word := m.read a ++ m.read (a + 1#32) ++ m.read (a + 2#32) ++ m.read (a + 3#32)

/-- Real-mode fetching at the pc from big-endian storage, with every context register in force. -/
structure fetchesReal (s : State) : Prop where
  settled : s.stale = []
  real : bit s.msr 26 = false
  order : regionBit s.spr.sler s.pc = false

/-- The same where the storage is not on-chip memory. -/
structure fetching (s : State) : Prop extends fetchesReal s where
  offChip : ocmHolds s.env.instrOcm s.pc = false

/-- No older copy of a word is left that a fetch may give. -/
def noOldCode (s : State) : Prop := s.oldMem = [] ∧ s.oldCode = [] ∧ s.oldLines = []

/-- The bytes at the pc, with no copy of them anywhere but in memory: the storage is not cacheable for fetches, neither cache holds
the word, no old word is left, and memory answers. -/
structure codeAt (w : Word) (s : State) : Prop extends fetching s where
  closed : s.ccr0Open = false
  inhibited : regionBit s.spr.iccr s.pc = false
  icache : s.iHit s.pc s.pc = none
  dcache : s.dHit (s.pc &&& 0xFFFFFFFC#32) = none
  old : noOldCode s
  answers : ∀ k, k < 4 → s.memKind ((s.pc &&& 0xFFFFFFFC#32) + BitVec.ofNat 32 k) = .ram
  bytes : w = wordIn s.mem (s.pc &&& 0xFFFFFFFC#32)

/-- The bytes at the pc in the instruction-side on-chip memory, which is not cached (D6). -/
structure codeOnChip (w : Word) (s : State) : Prop extends fetchesReal s where
  onChip : ocmHolds s.env.instrOcm s.pc = true
  bytes : w = wordIn s.instrOcm (s.pc &&& 0xFFFFFFFC#32)

/-- An instruction with this outcome raises no exception, and the search for one met no error of the TLB. -/
def raisesNothing : Out → Prop
  | .next u => u.retire ≠ .excepted
  | .fault f => f ≠ .multipleTlbHits ∧ f ≠ .rpnUnusedBits ∧ f ≠ .ocmPageTranslated
  | .refused _ => True

/-- The processor runs, does not wait, and no debug event, machine check or critical request comes before the instruction. -/
structure undisturbed (s : State) : Prop where
  running : s.run = .running
  awake : bit s.msr 13 = false
  machineCheck : s.dataMC = false
  debug : s.dbg.dbcr0 = 0#32
  ude : s.env.ude = false
  critical : criticalRequest s = none
  ahead : s.aheadFault = none

end Sys2Proof.Claims

/-- Steps without an instruction: the start of a step is the ticks (with every context register in force and CCR0[PFC] = CCR0[PFNC] = 0,
nothing but them and the records of the last step; fetching ahead changes the instruction cache besides), and a processor that is stopped,
or waits (MSR[WE] = 1) with no request, or stands in debug-wait with none that it services, does nothing more. A waiting processor takes
an enabled request as any other, in the order of R755, a data machine check, the UDE signal in internal debug mode, critical input,
watchdog, external, FIT, PIT: the return address is the pc, and the saved MSR has WE = 1 (R796). One in debug-wait leaves it for an
enabled critical input or external request alone (R874; that it then counts as one to return to debug-wait is log entry 22). In both
the premise says that no exception-taken event is enabled, and for the machine check that it is due (log entry 15). A running processor
on which a fetch ahead met a programming error in translation stops (R225; for unused RPN bits and on-chip memory the model's choice,
log entries 16 and 29). -/
def Obligations.StepsBeginWithTheTicksAndMayWait : Prop :=
  ∀ s : State,
    (s.stale = [] → bit s.spr.ccr0 20 = false → bit s.spr.ccr0 21 = false →
        s.env.clock = .every 0 ∨ (s.tmr.frozen = true ∧ ∃ n, s.env.clock = .every n) →
      s.begun = { s with retire := .completed, dvcBits := 0#32, aheadFault := none }) ∧
    (s.env.clock = .every 1 → (tick s).stale = [] → bit (tick s).spr.ccr0 20 = false → bit (tick s).spr.ccr0 21 = false →
      s.begun = { tick s with retire := .completed, dvcBits := 0#32, aheadFault := none }) ∧
    (s.env.clock = .every 1 → (tick s).stale = [] →
      s.begun = { tick s with retire := .completed, dvcBits := 0#32, icache := s.begun.icache, oldLines := s.begun.oldLines
                              busFetch := s.begun.busFetch, draws := s.begun.draws, aheadFault := s.begun.aheadFault }) ∧
    (s.begun.run = .running → bit s.begun.msr 13 = false → ∀ f, s.begun.aheadFault = some f → step s = .fault f) ∧
    (s.begun.run = .stopped → step s = .next s.begun) ∧
    (s.begun.run = .running → bit s.begun.msr 13 = true → s.begun.dataMC = false → s.begun.env.ude = false →
      s.begun.debugPending = false → criticalRequest s.begun = none → lowRequest s.begun = none → step s = .next s.begun) ∧
    let b := s.begun
    let ret := b.pc &&& 0xFFFFFFFC#32
    let ce := bit b.msr 14
    let ee := bit b.msr 16
    let fit := bit b.tmr.tsr 5 && bit b.tmr.tcr 8
    let pit := bit b.tmr.tsr 4 && bit b.tmr.tcr 5
    let critical (offset keep : Word) (u : State) : Prop :=
      ∃ t, step s = .next t ∧ Claims.EntersCritical offset ret b.spr.esr keep u t
    let noncritical (offset : Word) (u : State) : Prop := ∃ t, step s = .next t ∧ Claims.Enters offset ret b.spr.esr b.spr.dear u t
    (bit b.dbg.dbcr0 6 = false → b.run = .running → bit b.msr 13 = true →
      (b.dataMC = true → b.mcDue = true → bit b.msr 19 = true →
        critical 0x0200#32 0#32 { b with dataMC := false, mcDue := false }) ∧
      (b.dataMC = false → b.stale = [] → b.env.ude = true → bit b.dbg.dbcr0 0 = false → bit b.dbg.dbcr0 1 = true →
        bit b.msr 22 = true → ∃ t, step s = .next t ∧ Claims.TakesDebug (oneBit 4 true) b.pc b t) ∧
      (b.dataMC = false → b.env.ude = false → b.debugPending = false →
        (b.env.critReq = true → ce = true → critical 0x0100#32 0x00001000#32 b) ∧
        ((b.env.critReq && ce) = false →
          (ce = true → bit b.tmr.tsr 1 = true → bit b.tmr.tcr 4 = true → critical 0x1020#32 0x00001000#32 b) ∧
          ((ce && bit b.tmr.tsr 1 && bit b.tmr.tcr 4) = false → ee = true →
            (b.env.extReq = true → noncritical 0x0500#32 b) ∧
            (b.env.extReq = false → fit = true → noncritical 0x1010#32 b) ∧
            (b.env.extReq = false → fit = false → pit = true → noncritical 0x1000#32 b))))) ∧
    (b.run = .debugWait →
      let leaves : State := { b with run := .running, dwLatched := true }
      (bit b.dbg.dbcr0 6 = false → b.env.critReq = true → ce = true → critical 0x0100#32 0x00001000#32 leaves) ∧
      (bit b.dbg.dbcr0 6 = false → (b.env.critReq && ce) = false → b.env.extReq = true → ee = true →
        noncritical 0x0500#32 leaves) ∧
      ((b.env.critReq && ce) = false → (b.env.extReq && ee) = false → step s = .next b))

/-- A step executes the instruction that the word at the pc, in memory or in on-chip memory, decodes to, on the state after the ticks
and the fetch, and then meets its completion events, with debug interrupts enabled or not as they were before it (R879; for instructions
but `rfci` the model's choice, log entry 10); a fault or a refusal of the instruction is the step's. -/
def Obligations.StepRunsTheDecodedInstruction : Prop :=
  ∀ (s u : State) (w : Word) (i : Instr), Claims.undisturbed s.begun → lowRequest s.begun = none → decode w = .ok i →
    (Claims.codeAt w s.begun ∧ u = { s.begun with busFetch := true }) ∨ (Claims.codeOnChip w s.begun ∧ u = s.begun) →
    (∀ t, exec i u = .next t →
      step s = .next (if t.retire = .completed then completionEvents (bit s.begun.msr 22) t else t)) ∧
    (∀ f, exec i u = .fault f → step s = .fault f) ∧
    (∀ r, exec i u = .refused r → step s = .refused r)

/-- Steps whose fetch gives no instruction to execute. A word that is no instruction takes the illegal-instruction program interrupt
(R772); one with a 1 in a reserved bit stops (U20: boundedly undefined) unless a request is taken in its place. In virtual mode a pc
that no entry translates takes the instruction-TLB-miss interrupt (R782), one in a page without access, without execute permission
or guarded the instruction-storage interrupt (R768), with ESR[DIZ] only for the first. Where nothing answers on the bus, the
instruction machine check is taken with MSR[ME] = 1: ESR[MCI], and on a Virtex-4 MCSR[MCS, IPLBE]; with MSR[ME] = 0, ESR[MCI] is set
and an open word executes (R766, U10). That ESR[MCI] and MCSR are set there too where an enabled external, FIT or PIT request is
then taken in place of that word is the model's choice (log entry 15): the spec does not say. -/
def Obligations.StepMeetsIllegalWords : Prop :=
  (∀ (s : State) (w : Word), Claims.undisturbed s.begun → Claims.codeAt w s.begun →
    (decode w = .illegal → ∃ t, step s = .next t ∧
      Claims.Enters 0x0700#32 (s.begun.pc &&& 0xFFFFFFFC#32) (Claims.esrOnly s.begun 4) s.begun.spr.dear s.begun t) ∧
    (decode w = .reservedBits → lowRequest s.begun = none → step s = .refused .reservedBits)) ∧
  (∀ s : State, Claims.undisturbed s.begun → s.begun.stale = [] → bit s.begun.msr 26 = true → s.begun.itlbOld = [] →
    let b := s.begun
    let mci := b.spr.esr &&& 0x80000000#32
    ((∀ i, ¬ Claims.translates b b.pc i) → ∃ t, step s = .next t ∧
      Claims.Enters 0x1200#32 (b.pc &&& 0xFFFFFFFC#32) b.spr.esr b.spr.dear b t) ∧
    ∀ i, Claims.onlyEntry b b.pc i →
      (Claims.noAccess b (b.tlbEntry i) → ∃ t, step s = .next t ∧
        Claims.Enters 0x0400#32 (b.pc &&& 0xFFFFFFFC#32) (mci ||| oneBit 9 true) b.spr.dear b t) ∧
      (¬ Claims.noAccess b (b.tlbEntry i) →
        ((b.tlbEntry i).ex = false ∧ ¬ Claims.fullAccess b (b.tlbEntry i)) ∨ (b.tlbEntry i).g = true → ∃ t, step s = .next t ∧
          Claims.Enters 0x0400#32 (b.pc &&& 0xFFFFFFFC#32) mci b.spr.dear b t)) ∧
  ∀ s : State, Claims.undisturbed s.begun → Claims.fetching s.begun → s.begun.ccr0Open = false →
    s.begun.iHit s.begun.pc s.begun.pc = none → s.begun.memKind s.begun.pc = .vacant →
    let b := s.begun
    let mcsr := if b.virtex4 then b.spr.mcsr ||| 0xC0000000#32 else b.spr.mcsr
    (bit b.msr 19 = true → ∃ t, step s = .next t ∧
      Claims.EntersCritical 0x0200#32 (b.pc &&& 0xFFFFFFFC#32) 0x80000000#32 0#32
        { b with spr := { b.spr with mcsr := mcsr } } t) ∧
    (bit b.msr 19 = false → ∃ w, step s =
      runWord w { b with spr := { b.spr with mcsr := mcsr, esr := setBit b.spr.esr 0 true }, draws := b.draws + 1 })

/-- Requests at the boundary before an instruction that raises no exception (R755, R800): a critical input with MSR[CE] = 1, the
watchdog, an external request with MSR[EE] = 1, FIT and PIT requests, in this order; the instruction does not execute. Before all of
them stands a data bus error: with MSR[ME] = 1 the machine check is taken, ESR and MCSR as they are; with MSR[ME] = 0 the report is gone
(R756, R766). The model's own are: that an instruction which the model refuses, or faults on by what it does, counts as one that raises
no exception, so that the request is taken in its place (log entry 26, DEDUCED and DESIGN CHOICE); and that the bus error is acted on
at the boundary after a `sync` or `eieio` that has waited for it (`mcDue`, log entry 15). -/
def Obligations.RequestsAreTakenByPriority : Prop :=
  ∀ (s : State) (w : Word) (i : Instr),
    let b := s.begun
    (b.run = .running → b.aheadFault = none → b.dataMC = true → b.mcDue = true → b.stale = [] → b.dbg.dbcr0 = 0#32 →
      (bit b.msr 19 = true → ∃ t, step s = .next t ∧
        Claims.EntersCritical 0x0200#32 (b.pc &&& 0xFFFFFFFC#32) b.spr.esr 0#32 { b with dataMC := false, mcDue := false } t) ∧
      (bit b.msr 19 = false → dataMachineCheck b = .goOn { b with dataMC := false, mcDue := false })) ∧
    (b.run = .running → bit b.msr 13 = false → b.aheadFault = none → b.dataMC = false → b.dbg.dbcr0 = 0#32 → b.env.ude = false →
    Claims.codeAt w b →
    let critical (offset : Word) (t : State) : Prop :=
      t.pc = (b.spr.evpr &&& 0xFFFF0000#32) ||| offset ∧ t.spr.srr2 = b.pc &&& 0xFFFFFFFC#32 ∧ t.spr.srr3 = b.msr ∧
      t.msr = b.msr &&& 0x00001000#32 ∧ t.gpr = b.gpr ∧ t.mem = b.mem
    let noncritical (offset : Word) (t : State) : Prop :=
      Claims.Enters offset (b.pc &&& 0xFFFFFFFC#32) b.spr.esr b.spr.dear b t
    let ce := bit b.msr 14
    let ee := bit b.msr 16
    let watchdog := bit b.tmr.tsr 1 && bit b.tmr.tcr 4 && ce
    let fit := bit b.tmr.tsr 5 && bit b.tmr.tcr 8
    let pit := bit b.tmr.tsr 4 && bit b.tmr.tcr 5
    (b.env.critReq = true → ce = true → ∃ t, step s = .next t ∧ critical 0x0100#32 t) ∧
    ((b.env.critReq && ce) = false → watchdog = true → ∃ t, step s = .next t ∧ critical 0x1020#32 t) ∧
    ((b.env.critReq && ce) = false → watchdog = false → decode w = .ok i →
      Claims.raisesNothing (exec i { b with busFetch := true }) → ee = true →
      (b.env.extReq = true → ∃ t, step s = .next t ∧ noncritical 0x0500#32 t) ∧
      (b.env.extReq = false → fit = true → ∃ t, step s = .next t ∧ noncritical 0x1010#32 t) ∧
      (b.env.extReq = false → fit = false → pit = true → ∃ t, step s = .next t ∧ noncritical 0x1000#32 t)))

namespace Sys2Proof.Claims

/-- The word of the instruction-cache line in way `y` that holds the pc. -/
def lineWordAt (s : State) (y : Way) : Word :=
  ((s.iClass (classIndex s.pc)).line y).data.extractLsb' (32 * (7 - s.pc.toNat % 32 / 4)) 32

end Sys2Proof.Claims

/-- Fetching in real mode from big-endian storage (R145, R162, R163, R183). Non-cacheable: the word in memory, or one of the older
copies of it that are left. Cacheable, a hit whose line, filled in the same byte order, agrees with memory: the line's word, and no
line changes. A miss with CCR0[FWOA] = 0 and nothing but memory to read: the word in memory, and the line then holds the block. After a
change of CCR0[IPP, FWOA] and before the next context synchronization a fetch that needs the bus stops (R950, log entry 16). From on-chip
memory: its word, and nothing changes (D6). An instruction machine check is `StepMeetsIllegalWords`. -/
def Obligations.FetchesReadMemoryAndTheInstructionCache : Prop :=
  (∀ s : State, Claims.fetchesReal s → ocmHolds s.env.instrOcm s.pc = true →
    fetch s.pc s = .word (Claims.wordIn s.instrOcm (s.pc &&& 0xFFFFFFFC#32)) s) ∧
  ∀ s : State, Claims.fetching s →
    let pc := s.pc &&& 0xFFFFFFFC#32
    let now := Claims.wordIn s.mem pc
    let wordAnswers : Prop := ∀ k, k < 4 → s.memKind (pc + BitVec.ofNat 32 k) = .ram
    let blockAnswers : Prop := ∀ a, blockOf a = blockOf s.pc → s.memKind a = .ram
    (s.ccr0Open = true → s.iHit s.pc s.pc = none → fetch s.pc s = .fault .ccr0OutsideSequence) ∧
    (wordAnswers → regionBit s.spr.iccr s.pc = false → s.ccr0Open = false → s.iHit s.pc s.pc = none → s.dHit pc = none →
      ∃ v t, fetch s.pc s = .word v t ∧ t = { s with busFetch := true, draws := t.draws } ∧
        (v = now ∨ (pc.toNat / 4, v) ∈ s.oldMem ++ s.oldCode ∨
          ∃ l ∈ s.oldLines, l.block = pc.toNat / 32 ∧ v = l.data.extractLsb' (32 * (7 - pc.toNat % 32 / 4)) 32)) ∧
    (blockAnswers → regionBit s.spr.iccr s.pc = true → Claims.noOldCode s → s.dHit pc = none → ∀ y, s.iHit s.pc s.pc = some y →
      ((s.iClass (classIndex s.pc)).line y).little = false → Claims.lineWordAt s y = now →
      ∃ t, fetch s.pc s = .word now t ∧ t = { s with icache := t.icache } ∧
        ∀ j, (t.iClass j).wayA = (s.iClass j).wayA ∧ (t.iClass j).wayB = (s.iClass j).wayB) ∧
    (blockAnswers → regionBit s.spr.iccr s.pc = true → bit s.spr.ccr0 23 = false → s.ccr0Open = false → Claims.noOldCode s →
      s.iHit s.pc s.pc = none → (∀ a, blockOf a = blockOf s.pc → s.dHit a = none) →
      ∃ t y, fetch s.pc s = .word now t ∧
        t = { s with icache := t.icache, oldLines := t.oldLines, busFetch := true, draws := t.draws } ∧
        t.iHit s.pc s.pc = some y ∧
        ∀ a, blockOf a = blockOf s.pc →
          lineByte ((t.iClass (classIndex s.pc)).line y).data (lineOffset a) = s.mem.read a)

/-! ### Encoding (30_encoding.md, 40 to 46) -/

/-- Words written out from the spec's encodings decode to the instructions they stand for; `lbzx` with its reserved bit 31 set is an
encoding with a reserved bit; opcode 31 with extended opcode 1023, which no row has, and the word 0 are no instruction. -/
def Obligations.SampleWordsDecode : Prop :=
  decode 0x7C642A14#32 = .ok (.add 3#5 4#5 5#5 false false) ∧
  decode 0x38640008#32 = .ok (.addi 3#5 4#5 8#16) ∧
  decode 0x80640008#32 = .ok (.lwz 3#5 4#5 8#16) ∧
  decode 0x48000101#32 = .ok (.b 0x40#24 false true) ∧
  decode 0x44000002#32 = .ok .sc ∧
  decode 0x7C6428AE#32 = .ok (.lbzx 3#5 4#5 5#5) ∧
  decode 0x7C6428AF#32 = .reservedBits ∧
  decode 0x7C64FFFF#32 = .illegal ∧
  decode 0x00000000#32 = .illegal

/-- Decoding what the encoder writes gives back the instruction, with every operand at every value: for the instructions of a valid
form, and for the invalid forms of `Instr.wellFormed` too. -/
def Obligations.DecodeReadsBackWhatEncodeWrites : Prop := ∀ i : Instr, decode (encode i) = .ok i

/-- A word that decodes to an instruction is the one the encoder writes for it: no two words stand for one instruction, and no bit of
a word goes unread. -/
def Obligations.EncodeWritesBackWhatDecodeReads : Prop :=
  ∀ (w : Word) (i : Instr), decode w = .ok i → encode i = w

/-! ### Invariants -/

/-- The invariant holds at reset. -/
def Obligations.ResetMeetsTheInvariants : Prop := State.reset.inv ∧ State.reset.linesDistinct

/-- Every step keeps the memory's canonical form, the pc's alignment (R44) and PVR (R72). -/
def Obligations.StepsKeepTheInvariant : Prop :=
  ∀ s t : State, s.inv → step s = .next t → t.inv ∧ t.spr.pvr = s.spr.pvr

/-- Every step keeps the data cache free of a block held twice. -/
def Obligations.StepsKeepCacheLinesDistinct : Prop :=
  ∀ s t : State, s.linesDistinct → step s = .next t → t.linesDistinct

/-- In user mode no instruction that completes changes the privileged state: MSR, the special-purpose registers but for USPRG0, the
timers, the debug registers, the DCRs and the UTLB (R790; no debug event, no bus error). -/
def Obligations.UserModeKeepsPrivilegedState : Prop :=
  ∀ (i : Instr) (s t : State), s.settled → bit s.msr 17 = true → s.noDebug → s.quietBus →
    exec i s = .next t → t.retire = .completed →
    t.msr = s.msr ∧ t.spr = { s.spr with usprg0 := t.spr.usprg0 } ∧ t.tmr = s.tmr ∧ t.dbg = s.dbg ∧ t.dcr = s.dcr ∧
      t.utlb = s.utlb
end

