-- ==== Sys2Proof/Laws/Bits.lean ====
section
/-! SUPPORT. Laws/Bits.lean: what the bit and field operations of Machine/Bits.lean, Machine/Operands.lean and
Machine/Flags.lean do to each bit of a word, bit 0 the most significant. -/

namespace Sys2Proof.Machine

theorem bit_eq_getLsbD (w : Word) (i : Nat) : bit w i = w.getLsbD (31 - i) := rfl

/-- Two words with the same 32 bits are equal. -/
theorem word_ext {a b : Word} (h : ∀ k, k < 32 → bit a k = bit b k) : a = b := by
  apply BitVec.eq_of_getLsbD_eq
  intro i hi
  have := h (31 - i) (by omega)
  simpa [bit, show 31 - (31 - i) = i by omega] using this

@[simp] theorem bit_zero (k : Nat) : bit 0#32 k = false := by simp [bit]
@[simp] theorem bit_and (a b : Word) (k : Nat) : bit (a &&& b) k = (bit a k && bit b k) := by simp [bit]
@[simp] theorem bit_or (a b : Word) (k : Nat) : bit (a ||| b) k = (bit a k || bit b k) := by simp [bit]
@[simp] theorem bit_xor (a b : Word) (k : Nat) : bit (a ^^^ b) k = (bit a k ^^ bit b k) := by simp [bit]
theorem bit_not (a : Word) (k : Nat) : bit (~~~a) k = !bit a k := by
  simp [bit]; omega

theorem bit_oneBit (i : Nat) (v : Bool) (k : Nat) (hi : i < 32) (hk : k < 32) :
    bit (oneBit i v) k = (v && decide (k = i)) := by
  cases v
  · simp [oneBit]
  · have e : (31 - k - (31 - i) = 0 ∧ ¬ 31 - k < 31 - i) ↔ k = i := by omega
    simp only [bit, oneBit, if_true, BitVec.getLsbD_shiftLeft, BitVec.getLsbD_one, Bool.true_and]
    by_cases h : k = i
    · subst h; simp; omega
    · simp only [h, decide_false, Bool.and_eq_false_imp]; simp; omega

theorem bit_setBit (w : Word) (i : Nat) (v : Bool) (k : Nat) (hi : i < 32) (hk : k < 32) :
    bit (setBit w i v) k = if k = i then v else bit w k := by
  have h := bit_oneBit i true k hi hk
  simp only [oneBit, if_true, Bool.true_and] at h
  simp only [setBit, bit_or, bit_and, bit_not, h, bit_oneBit i v k hi hk]
  by_cases e : k = i <;> simp [e]

/-- A CR field written: the four bits of the field, the first the most significant, and no other bit. -/
theorem bit_withCrField (cr : Word) (n : BitVec 3) (v : BitVec 4) (k : Nat) (hk : k < 32) :
    bit (withCrField cr n v) k = if k / 4 = n.toNat then v.getLsbD (3 - k % 4) else bit cr k := by
  have hn := n.isLt
  simp only [withCrField, bit_or, bit_and, bit_not]
  simp only [bit, BitVec.getLsbD_shiftLeft, BitVec.getLsbD_setWidth]
  have hlit : ∀ j, BitVec.getLsbD (0xF#32) j = decide (j < 4) := by
    intro j
    by_cases h : j < 32
    · revert h; revert j; decide
    · rw [BitVec.getLsbD_of_ge _ _ (by omega)]; simp; omega
  rw [hlit]
  by_cases h : k / 4 = n.toNat
  · have h1 : ¬ 31 - k < 28 - 4 * n.toNat := by omega
    have h2 : 31 - k - (28 - 4 * n.toNat) = 3 - k % 4 := by omega
    have h3 : 3 - k % 4 < 4 := by omega
    have h4 : 31 - k < 32 := by omega
    have h5 : 3 - k % 4 < 32 := by omega
    simp [h, h1, h2, h3, h4, h5]
  · by_cases h1 : 31 - k < 28 - 4 * n.toNat
    · simp [h, h1]
    · have h2 : ¬ (31 - k - (28 - 4 * n.toNat) < 4) := by omega
      have h3 : v.getLsbD (31 - k - (28 - 4 * n.toNat)) = false := BitVec.getLsbD_of_ge _ _ (by omega)
      simp [h, h1, h2, h3]

/-- The four bits of `crBits`. -/
theorem getLsbD_crBits (lt gt eq so : Bool) (j : Nat) :
    (crBits lt gt eq so).getLsbD j =
      if j = 0 then so else if j = 1 then eq else if j = 2 then gt else if j = 3 then lt else false := by
  match j with
  | 0 => revert lt gt eq so; decide
  | 1 => revert lt gt eq so; decide
  | 2 => revert lt gt eq so; decide
  | 3 => revert lt gt eq so; decide
  | j + 4 => simp

/-- XER after a write of OV: OV is the value, SO is set by it, no other bit changes. -/
theorem bit_withOv (x : Word) (v : Bool) (k : Nat) (hk : k < 32) :
    bit (withOv x v) k = if k = 0 then (bit x 0 || v) else if k = 1 then v else bit x k := by
  unfold withOv
  rw [bit_setBit _ _ _ _ (by omega) hk, bit_setBit _ _ _ _ (by omega) hk]

@[simp] theorem crFieldOf_withCrField_self (cr : Word) (n : BitVec 3) (v : BitVec 4) :
    crFieldOf (withCrField cr n v) n = v := by
  apply BitVec.eq_of_getLsbD_eq
  intro i hi
  have hn := n.isLt
  have h := bit_withCrField cr n v (4 * n.toNat + (3 - i)) (by omega)
  rw [if_pos (by omega), show 3 - (4 * n.toNat + (3 - i)) % 4 = i by omega] at h
  rw [← h]
  simp only [crFieldOf, bits, bit, BitVec.getLsbD_extractLsb', hi, decide_true, Bool.true_and]
  congr 1
  omega

end Sys2Proof.Machine
end

