-- ==== Sys2Proof/Laws/Memory.lean ====
section
/-! SUPPORT. Laws/Memory.lean: system memory: a read after a write, and every write keeps the canonical form. -/

namespace Sys2Proof.Machine

theorem lookupCell_of_lt {lo a : Nat} {l : List Host.Cell} (h : cellsOk lo l = true) (ha : a < lo) :
    lookupCell a l = Config.unwrittenByte := by
  cases l with
  | nil => rfl
  | cons c r =>
    obtain ⟨k, b⟩ := c
    simp only [cellsOk, Bool.and_eq_true, decide_eq_true_eq] at h
    have : a ≠ k := by omega
    have h2 : a < k := by omega
    simp [lookupCell, this, h2]

theorem cellsOk_mono {lo lo' : Nat} {l : List Host.Cell} (h : cellsOk lo l = true) (hl : lo' ≤ lo) :
    cellsOk lo' l = true := by
  cases l with
  | nil => rfl
  | cons c r =>
    obtain ⟨k, b⟩ := c
    simp only [cellsOk, Bool.and_eq_true, decide_eq_true_eq] at h ⊢
    exact ⟨⟨⟨by omega, h.1.1.2⟩, h.1.2⟩, h.2⟩

/-- What `insertCell` leaves is canonical. -/
theorem cellsOk_insertCell {lo a : Nat} (b : Byte) {l : List Host.Cell} (h : cellsOk lo l = true) (hl : lo ≤ a)
    (ha : a < 2 ^ 32) : cellsOk lo (insertCell a b l) = true := by
  induction l generalizing lo with
  | nil =>
    simp only [insertCell]
    split
    · rfl
    · simp [cellsOk, hl]; exact ⟨by omega, by assumption⟩
  | cons c r ih =>
    obtain ⟨k, v⟩ := c
    have h0 := h
    simp only [cellsOk, Bool.and_eq_true, decide_eq_true_eq] at h
    simp only [insertCell]
    split
    · split
      · exact h0
      · simp only [cellsOk, Bool.and_eq_true, decide_eq_true_eq, bne_iff_ne, ne_eq]
        exact ⟨⟨⟨hl, ha⟩, by assumption⟩, ⟨⟨by omega, h.1.1.2⟩, by simpa using h.1.2⟩, h.2⟩
    · split
      · split
        · exact cellsOk_mono h.2 (by omega)
        · simp only [cellsOk, Bool.and_eq_true, decide_eq_true_eq, bne_iff_ne, ne_eq]
          exact ⟨⟨⟨h.1.1.1, h.1.1.2⟩, by assumption⟩, h.2⟩
      · simp only [cellsOk, Bool.and_eq_true, decide_eq_true_eq]
        exact ⟨h.1, ih h.2 (by omega)⟩

/-- What a read gives after `insertCell`. -/
theorem lookupCell_insertCell {lo : Nat} (a a' : Nat) (b : Byte) {l : List Host.Cell} (h : cellsOk lo l = true) :
    lookupCell a' (insertCell a b l) = if a' = a then b else lookupCell a' l := by
  induction l generalizing lo with
  | nil =>
    simp only [insertCell]
    split
    · rename_i hb
      by_cases e : a' = a <;> simp [lookupCell, e, hb]
    · by_cases e : a' = a
      · simp [lookupCell, e]
      · simp [lookupCell, e]
  | cons c r ih =>
    obtain ⟨k, v⟩ := c
    simp only [cellsOk, Bool.and_eq_true, decide_eq_true_eq] at h
    simp only [insertCell]
    split
    · rename_i hk
      split
      · rename_i hb
        by_cases e : a' = a
        · have h1 : a' ≠ k := by omega
          have h2 : a' < k := by omega
          simp [lookupCell, e ▸ h1, e ▸ h2, e, hb]
        · simp [e]
      · by_cases e : a' = a
        · simp [lookupCell, e]
        · by_cases e2 : a' < a
          · have h1 : a' ≠ k := by omega
            have h2 : a' < k := by omega
            simp [lookupCell, e, e2, h1, h2]
          · simp [lookupCell, e, e2]
    · rename_i hk
      split
      · rename_i hk2
        split
        · rename_i hb
          by_cases e : a' = a
          · rw [e, lookupCell_of_lt h.2 (by omega)]
            simp [hb]
          · by_cases e2 : a' < k
            · rw [lookupCell_of_lt h.2 (by omega)]
              have : a' ≠ k := by omega
              simp [lookupCell, e, this, e2]
            · have : a' ≠ k := by omega
              simp [lookupCell, e, this, e2]
        · by_cases e : a' = a
          · simp [lookupCell, e, hk2]
          · have : a' ≠ k := by omega
            simp [lookupCell, e, this]
      · rename_i hk2
        by_cases e : a' = k
        · have : a' ≠ a := by omega
          have h3 : k ≠ a := by omega
          simp [lookupCell, e, h3]
        · by_cases e2 : a' < k
          · have : a' ≠ a := by omega
            simp [lookupCell, e, e2, this]
          · simp only [lookupCell, e, e2, if_false]
            rw [ih h.2]

/-- A write keeps the canonical form. -/
theorem Memory.write_wf {m : Memory} (h : m.wf = true) (a : Word) (b : Byte) : (m.write a b).wf = true :=
  cellsOk_insertCell b h (by omega) a.isLt

/-- A byte reads as what was written to it, and every other byte as before. -/
theorem Memory.read_write {m : Memory} (h : m.wf = true) (a a' : Word) (b : Byte) :
    (m.write a b).read a' = if a' = a then b else m.read a' := by
  have := lookupCell_insertCell a.toNat a'.toNat b h
  simp only [Memory.read, Memory.write, this, BitVec.toNat_inj]

/-- Writing bytes keeps the canonical form. -/
theorem Memory.writeBytes_wf {m : Memory} (h : m.wf = true) (a : Word) (bs : List Byte) :
    (m.writeBytes a bs).wf = true := by
  induction bs generalizing m a with
  | nil => exact h
  | cons b bs ih => exact ih (Memory.write_wf h a b) _

/-- Writing some of consecutive bytes keeps the canonical form. -/
theorem Memory.writeSome_wf {m : Memory} (h : m.wf = true) (a : Word) (bs : List (Option Byte)) :
    (m.writeSome a bs).wf = true := by
  induction bs generalizing m a with
  | nil => exact h
  | cons b bs ih =>
    cases b with
    | none => exact ih h _
    | some b => exact ih (Memory.write_wf h a b) _

/-- Where all bytes are given, all are written. -/
@[simp] theorem Memory.writeSome_all (m : Memory) (a : Word) (bs : List Byte) :
    m.writeSome a (bs.map some) = m.writeBytes a bs := by
  induction bs generalizing m a with
  | nil => rfl
  | cons b bs ih => exact ih _ _

/-- Where no byte is given, memory stays. -/
@[simp] theorem Memory.writeSome_none (m : Memory) (a : Word) (n : Nat) : m.writeSome a (List.replicate n none) = m := by
  induction n generalizing a with
  | zero => rfl
  | succ n ih => exact ih _

/-- What a read gives after consecutive bytes are written, for at most 2^32 of them. -/
theorem Memory.read_writeBytes {m : Memory} (h : m.wf = true) (a a' : Word) (bs : List Byte) (hn : bs.length ≤ 2 ^ 32) :
    (m.writeBytes a bs).read a' = bs.getD (a' - a).toNat (m.read a') := by
  induction bs generalizing m a with
  | nil => simp [Memory.writeBytes]
  | cons b bs ih =>
    simp only [List.length_cons] at hn
    simp only [Memory.writeBytes]
    rw [ih (Memory.write_wf h a b) _ (by omega), Memory.read_write h]
    by_cases e : a' = a
    · subst e
      have : (a' - (a' + 1#32)).toNat = 2 ^ 32 - 1 := by
        rw [show a' - (a' + 1#32) = -1#32 by ring]; rfl
      rw [this, List.getD_eq_getElem?_getD, List.getElem?_eq_none (by omega)]
      simp
    · have h1 : (a' - a).toNat = (a' - (a + 1#32)).toNat + 1 := by
        have hne : a' - a ≠ 0#32 := by
          intro hc; exact e (by have := BitVec.sub_eq_iff_eq_add.mp hc; simpa using this)
        have : a' - (a + 1#32) = (a' - a) - 1#32 := by ring
        rw [this]
        have h0 : (a' - a).toNat ≠ 0 := by
          intro hc; apply hne; exact BitVec.eq_of_toNat_eq (by simpa using hc)
        have h1 : (1#32 : Word).toNat = 1 := rfl
        have h2 := BitVec.toNat_sub_of_le (x := a' - a) (y := 1#32) (by rw [BitVec.le_def, h1]; omega)
        rw [h2, h1]
        omega
      rw [h1]
      simp [List.getD_eq_getElem?_getD, e]

/-- Consecutive bytes read one by one. -/
theorem Memory.readBytes_append (m : Memory) (a : Word) (n k : Nat) :
    m.readBytes a (n + k) = m.readBytes a n ++ m.readBytes (a + BitVec.ofNat 32 n) k := by
  induction n generalizing a with
  | zero => simp [Memory.readBytes]
  | succ n ih =>
    rw [show n + 1 + k = (n + k) + 1 by omega]
    simp only [Memory.readBytes, List.cons_append, ih]
    congr 3
    rw [BitVec.add_assoc]
    congr 1
    rw [show (1#32 : Word) = BitVec.ofNat 32 1 from rfl, ← BitVec.ofNat_add]
    congr 1
    omega

@[simp] theorem Memory.length_readBytes (m : Memory) (a : Word) (n : Nat) : (m.readBytes a n).length = n := by
  induction n generalizing a with
  | zero => rfl
  | succ n ih => simp [Memory.readBytes, ih]

/-- Consecutive bytes written one part after another. -/
theorem Memory.writeBytes_append (m : Memory) (a : Word) (bs cs : List Byte) :
    m.writeBytes a (bs ++ cs) = (m.writeBytes a bs).writeBytes (a + BitVec.ofNat 32 bs.length) cs := by
  induction bs generalizing m a with
  | nil => simp [Memory.writeBytes]
  | cons b bs ih =>
    simp only [List.cons_append, Memory.writeBytes, ih, List.length_cons]
    congr 1
    rw [BitVec.add_assoc]
    congr 1
    rw [show (1#32 : Word) = BitVec.ofNat 32 1 from rfl, ← BitVec.ofNat_add]
    congr 1
    omega

/-- Memory at reset is canonical. -/
theorem reset_mem_wf : State.reset.mem.wf = true := rfl

end Sys2Proof.Machine
end

