-- ==== Sys2Proof/Laws/State.lean ====
section
/-! SUPPORT. Laws/State.lean: each field of State after each named update, so that no proof unfolds a record update. -/

namespace Sys2Proof.Machine

/-! ### Registers -/

/-- Reading a register after a write. No register is hard-wired (10_state.md R43). -/
theorem reg_setReg (s : State) (r q : Reg) (v : Word) : (s.setReg r v).reg q = if q = r then v else s.reg q := by
  simp only [State.reg, State.setReg]
  by_cases h : q = r
  · subst h; simp
  · have : r.toNat ≠ q.toNat := fun e => h (BitVec.eq_of_toNat_eq e).symm
    rw [Vector.getElem_set_ne _ _ this]
    simp [h]

@[simp] theorem reg_setReg_self (s : State) (r : Reg) (v : Word) : (s.setReg r v).reg r = v := by simp [reg_setReg]

theorem reg_setReg_ne (s : State) {r q : Reg} (v : Word) (h : q ≠ r) : (s.setReg r v).reg q = s.reg q := by
  simp [reg_setReg, h]

/-- The registers depend on no field but `gpr`. -/
theorem reg_congr {s t : State} (h : t.gpr = s.gpr) (r : Reg) : t.reg r = s.reg r := by simp [State.reg, h]

section setReg
variable (s : State) (r : Reg) (v : Word)
@[simp] theorem setReg_pc : (s.setReg r v).pc = s.pc := rfl
@[simp] theorem setReg_cr : (s.setReg r v).cr = s.cr := rfl
@[simp] theorem setReg_xer : (s.setReg r v).xer = s.xer := rfl
@[simp] theorem setReg_lr : (s.setReg r v).lr = s.lr := rfl
@[simp] theorem setReg_ctr : (s.setReg r v).ctr = s.ctr := rfl
@[simp] theorem setReg_msr : (s.setReg r v).msr = s.msr := rfl
@[simp] theorem setReg_spr : (s.setReg r v).spr = s.spr := rfl
@[simp] theorem setReg_tmr : (s.setReg r v).tmr = s.tmr := rfl
@[simp] theorem setReg_dbg : (s.setReg r v).dbg = s.dbg := rfl
@[simp] theorem setReg_dcr : (s.setReg r v).dcr = s.dcr := rfl
@[simp] theorem setReg_utlb : (s.setReg r v).utlb = s.utlb := rfl
@[simp] theorem setReg_itlbOld : (s.setReg r v).itlbOld = s.itlbOld := rfl
@[simp] theorem setReg_dtlbOld : (s.setReg r v).dtlbOld = s.dtlbOld := rfl
@[simp] theorem setReg_icache : (s.setReg r v).icache = s.icache := rfl
@[simp] theorem setReg_dcache : (s.setReg r v).dcache = s.dcache := rfl
@[simp] theorem setReg_dcacheReady : (s.setReg r v).dcacheReady = s.dcacheReady := rfl
@[simp] theorem setReg_icacheReady : (s.setReg r v).icacheReady = s.icacheReady := rfl
@[simp] theorem setReg_oldMem : (s.setReg r v).oldMem = s.oldMem := rfl
@[simp] theorem setReg_oldCode : (s.setReg r v).oldCode = s.oldCode := rfl
@[simp] theorem setReg_oldLines : (s.setReg r v).oldLines = s.oldLines := rfl
@[simp] theorem setReg_busFetch : (s.setReg r v).busFetch = s.busFetch := rfl
@[simp] theorem setReg_ccr0Open : (s.setReg r v).ccr0Open = s.ccr0Open := rfl
@[simp] theorem setReg_tlbReady : (s.setReg r v).tlbReady = s.tlbReady := rfl
@[simp] theorem setReg_dfb : (s.setReg r v).dfb = s.dfb := rfl
@[simp] theorem setReg_synced : (s.setReg r v).synced = s.synced := rfl
@[simp] theorem setReg_reserve : (s.setReg r v).reserve = s.reserve := rfl
@[simp] theorem setReg_stale : (s.setReg r v).stale = s.stale := rfl
@[simp] theorem setReg_run : (s.setReg r v).run = s.run := rfl
@[simp] theorem setReg_dwLatched : (s.setReg r v).dwLatched = s.dwLatched := rfl
@[simp] theorem setReg_dbgPend : (s.setReg r v).dbgPend = s.dbgPend := rfl
@[simp] theorem setReg_dataMC : (s.setReg r v).dataMC = s.dataMC := rfl
@[simp] theorem setReg_mcDue : (s.setReg r v).mcDue = s.mcDue := rfl
@[simp] theorem setReg_env : (s.setReg r v).env = s.env := rfl
@[simp] theorem setReg_mem : (s.setReg r v).mem = s.mem := rfl
@[simp] theorem setReg_dataOcm : (s.setReg r v).dataOcm = s.dataOcm := rfl
@[simp] theorem setReg_instrOcm : (s.setReg r v).instrOcm = s.instrOcm := rfl
@[simp] theorem setReg_draws : (s.setReg r v).draws = s.draws := rfl
@[simp] theorem setReg_retire : (s.setReg r v).retire = s.retire := rfl
@[simp] theorem setReg_dvcBits : (s.setReg r v).dvcBits = s.dvcBits := rfl
@[simp] theorem setReg_aheadFault : (s.setReg r v).aheadFault = s.aheadFault := rfl
end setReg

section advance
variable (s : State) 
@[simp] theorem advance_gpr : (s.advance).gpr = s.gpr := rfl
@[simp] theorem advance_cr : (s.advance).cr = s.cr := rfl
@[simp] theorem advance_xer : (s.advance).xer = s.xer := rfl
@[simp] theorem advance_lr : (s.advance).lr = s.lr := rfl
@[simp] theorem advance_ctr : (s.advance).ctr = s.ctr := rfl
@[simp] theorem advance_msr : (s.advance).msr = s.msr := rfl
@[simp] theorem advance_spr : (s.advance).spr = s.spr := rfl
@[simp] theorem advance_tmr : (s.advance).tmr = s.tmr := rfl
@[simp] theorem advance_dbg : (s.advance).dbg = s.dbg := rfl
@[simp] theorem advance_dcr : (s.advance).dcr = s.dcr := rfl
@[simp] theorem advance_utlb : (s.advance).utlb = s.utlb := rfl
@[simp] theorem advance_itlbOld : (s.advance).itlbOld = s.itlbOld := rfl
@[simp] theorem advance_dtlbOld : (s.advance).dtlbOld = s.dtlbOld := rfl
@[simp] theorem advance_icache : (s.advance).icache = s.icache := rfl
@[simp] theorem advance_dcache : (s.advance).dcache = s.dcache := rfl
@[simp] theorem advance_dcacheReady : (s.advance).dcacheReady = s.dcacheReady := rfl
@[simp] theorem advance_icacheReady : (s.advance).icacheReady = s.icacheReady := rfl
@[simp] theorem advance_oldMem : (s.advance).oldMem = s.oldMem := rfl
@[simp] theorem advance_oldCode : (s.advance).oldCode = s.oldCode := rfl
@[simp] theorem advance_oldLines : (s.advance).oldLines = s.oldLines := rfl
@[simp] theorem advance_busFetch : (s.advance).busFetch = s.busFetch := rfl
@[simp] theorem advance_ccr0Open : (s.advance).ccr0Open = s.ccr0Open := rfl
@[simp] theorem advance_tlbReady : (s.advance).tlbReady = s.tlbReady := rfl
@[simp] theorem advance_dfb : (s.advance).dfb = s.dfb := rfl
@[simp] theorem advance_synced : (s.advance).synced = s.synced := rfl
@[simp] theorem advance_reserve : (s.advance).reserve = s.reserve := rfl
@[simp] theorem advance_stale : (s.advance).stale = s.stale := rfl
@[simp] theorem advance_run : (s.advance).run = s.run := rfl
@[simp] theorem advance_dwLatched : (s.advance).dwLatched = s.dwLatched := rfl
@[simp] theorem advance_dbgPend : (s.advance).dbgPend = s.dbgPend := rfl
@[simp] theorem advance_dataMC : (s.advance).dataMC = s.dataMC := rfl
@[simp] theorem advance_mcDue : (s.advance).mcDue = s.mcDue := rfl
@[simp] theorem advance_env : (s.advance).env = s.env := rfl
@[simp] theorem advance_mem : (s.advance).mem = s.mem := rfl
@[simp] theorem advance_dataOcm : (s.advance).dataOcm = s.dataOcm := rfl
@[simp] theorem advance_instrOcm : (s.advance).instrOcm = s.instrOcm := rfl
@[simp] theorem advance_draws : (s.advance).draws = s.draws := rfl
@[simp] theorem advance_retire : (s.advance).retire = s.retire := rfl
@[simp] theorem advance_dvcBits : (s.advance).dvcBits = s.dvcBits := rfl
@[simp] theorem advance_aheadFault : (s.advance).aheadFault = s.aheadFault := rfl
@[simp] theorem advance_reg (q : Reg) : (s.advance).reg q = s.reg q := reg_congr (by simp) q
end advance

@[simp] theorem advance_pc (s : State) : s.advance.pc = s.pc + 4#32 := rfl

section setCrField
variable (s : State) (n : BitVec 3) (v : BitVec 4)
@[simp] theorem setCrField_gpr : (s.setCrField n v).gpr = s.gpr := rfl
@[simp] theorem setCrField_pc : (s.setCrField n v).pc = s.pc := rfl
@[simp] theorem setCrField_xer : (s.setCrField n v).xer = s.xer := rfl
@[simp] theorem setCrField_lr : (s.setCrField n v).lr = s.lr := rfl
@[simp] theorem setCrField_ctr : (s.setCrField n v).ctr = s.ctr := rfl
@[simp] theorem setCrField_msr : (s.setCrField n v).msr = s.msr := rfl
@[simp] theorem setCrField_spr : (s.setCrField n v).spr = s.spr := rfl
@[simp] theorem setCrField_tmr : (s.setCrField n v).tmr = s.tmr := rfl
@[simp] theorem setCrField_dbg : (s.setCrField n v).dbg = s.dbg := rfl
@[simp] theorem setCrField_dcr : (s.setCrField n v).dcr = s.dcr := rfl
@[simp] theorem setCrField_utlb : (s.setCrField n v).utlb = s.utlb := rfl
@[simp] theorem setCrField_itlbOld : (s.setCrField n v).itlbOld = s.itlbOld := rfl
@[simp] theorem setCrField_dtlbOld : (s.setCrField n v).dtlbOld = s.dtlbOld := rfl
@[simp] theorem setCrField_icache : (s.setCrField n v).icache = s.icache := rfl
@[simp] theorem setCrField_dcache : (s.setCrField n v).dcache = s.dcache := rfl
@[simp] theorem setCrField_dcacheReady : (s.setCrField n v).dcacheReady = s.dcacheReady := rfl
@[simp] theorem setCrField_icacheReady : (s.setCrField n v).icacheReady = s.icacheReady := rfl
@[simp] theorem setCrField_oldMem : (s.setCrField n v).oldMem = s.oldMem := rfl
@[simp] theorem setCrField_oldCode : (s.setCrField n v).oldCode = s.oldCode := rfl
@[simp] theorem setCrField_oldLines : (s.setCrField n v).oldLines = s.oldLines := rfl
@[simp] theorem setCrField_busFetch : (s.setCrField n v).busFetch = s.busFetch := rfl
@[simp] theorem setCrField_ccr0Open : (s.setCrField n v).ccr0Open = s.ccr0Open := rfl
@[simp] theorem setCrField_tlbReady : (s.setCrField n v).tlbReady = s.tlbReady := rfl
@[simp] theorem setCrField_dfb : (s.setCrField n v).dfb = s.dfb := rfl
@[simp] theorem setCrField_synced : (s.setCrField n v).synced = s.synced := rfl
@[simp] theorem setCrField_reserve : (s.setCrField n v).reserve = s.reserve := rfl
@[simp] theorem setCrField_stale : (s.setCrField n v).stale = s.stale := rfl
@[simp] theorem setCrField_run : (s.setCrField n v).run = s.run := rfl
@[simp] theorem setCrField_dwLatched : (s.setCrField n v).dwLatched = s.dwLatched := rfl
@[simp] theorem setCrField_dbgPend : (s.setCrField n v).dbgPend = s.dbgPend := rfl
@[simp] theorem setCrField_dataMC : (s.setCrField n v).dataMC = s.dataMC := rfl
@[simp] theorem setCrField_mcDue : (s.setCrField n v).mcDue = s.mcDue := rfl
@[simp] theorem setCrField_env : (s.setCrField n v).env = s.env := rfl
@[simp] theorem setCrField_mem : (s.setCrField n v).mem = s.mem := rfl
@[simp] theorem setCrField_dataOcm : (s.setCrField n v).dataOcm = s.dataOcm := rfl
@[simp] theorem setCrField_instrOcm : (s.setCrField n v).instrOcm = s.instrOcm := rfl
@[simp] theorem setCrField_draws : (s.setCrField n v).draws = s.draws := rfl
@[simp] theorem setCrField_retire : (s.setCrField n v).retire = s.retire := rfl
@[simp] theorem setCrField_dvcBits : (s.setCrField n v).dvcBits = s.dvcBits := rfl
@[simp] theorem setCrField_aheadFault : (s.setCrField n v).aheadFault = s.aheadFault := rfl
@[simp] theorem setCrField_reg (q : Reg) : (s.setCrField n v).reg q = s.reg q := reg_congr (by simp) q
end setCrField

theorem setCrField_cr (s : State) (n : BitVec 3) (v : BitVec 4) : (s.setCrField n v).cr = withCrField s.cr n v := rfl

section setCrBit
variable (s : State) (i : BitVec 5) (v : Bool)
@[simp] theorem setCrBit_gpr : (s.setCrBit i v).gpr = s.gpr := rfl
@[simp] theorem setCrBit_pc : (s.setCrBit i v).pc = s.pc := rfl
@[simp] theorem setCrBit_xer : (s.setCrBit i v).xer = s.xer := rfl
@[simp] theorem setCrBit_lr : (s.setCrBit i v).lr = s.lr := rfl
@[simp] theorem setCrBit_ctr : (s.setCrBit i v).ctr = s.ctr := rfl
@[simp] theorem setCrBit_msr : (s.setCrBit i v).msr = s.msr := rfl
@[simp] theorem setCrBit_spr : (s.setCrBit i v).spr = s.spr := rfl
@[simp] theorem setCrBit_tmr : (s.setCrBit i v).tmr = s.tmr := rfl
@[simp] theorem setCrBit_dbg : (s.setCrBit i v).dbg = s.dbg := rfl
@[simp] theorem setCrBit_dcr : (s.setCrBit i v).dcr = s.dcr := rfl
@[simp] theorem setCrBit_utlb : (s.setCrBit i v).utlb = s.utlb := rfl
@[simp] theorem setCrBit_itlbOld : (s.setCrBit i v).itlbOld = s.itlbOld := rfl
@[simp] theorem setCrBit_dtlbOld : (s.setCrBit i v).dtlbOld = s.dtlbOld := rfl
@[simp] theorem setCrBit_icache : (s.setCrBit i v).icache = s.icache := rfl
@[simp] theorem setCrBit_dcache : (s.setCrBit i v).dcache = s.dcache := rfl
@[simp] theorem setCrBit_dcacheReady : (s.setCrBit i v).dcacheReady = s.dcacheReady := rfl
@[simp] theorem setCrBit_icacheReady : (s.setCrBit i v).icacheReady = s.icacheReady := rfl
@[simp] theorem setCrBit_oldMem : (s.setCrBit i v).oldMem = s.oldMem := rfl
@[simp] theorem setCrBit_oldCode : (s.setCrBit i v).oldCode = s.oldCode := rfl
@[simp] theorem setCrBit_oldLines : (s.setCrBit i v).oldLines = s.oldLines := rfl
@[simp] theorem setCrBit_busFetch : (s.setCrBit i v).busFetch = s.busFetch := rfl
@[simp] theorem setCrBit_ccr0Open : (s.setCrBit i v).ccr0Open = s.ccr0Open := rfl
@[simp] theorem setCrBit_tlbReady : (s.setCrBit i v).tlbReady = s.tlbReady := rfl
@[simp] theorem setCrBit_dfb : (s.setCrBit i v).dfb = s.dfb := rfl
@[simp] theorem setCrBit_synced : (s.setCrBit i v).synced = s.synced := rfl
@[simp] theorem setCrBit_reserve : (s.setCrBit i v).reserve = s.reserve := rfl
@[simp] theorem setCrBit_stale : (s.setCrBit i v).stale = s.stale := rfl
@[simp] theorem setCrBit_run : (s.setCrBit i v).run = s.run := rfl
@[simp] theorem setCrBit_dwLatched : (s.setCrBit i v).dwLatched = s.dwLatched := rfl
@[simp] theorem setCrBit_dbgPend : (s.setCrBit i v).dbgPend = s.dbgPend := rfl
@[simp] theorem setCrBit_dataMC : (s.setCrBit i v).dataMC = s.dataMC := rfl
@[simp] theorem setCrBit_mcDue : (s.setCrBit i v).mcDue = s.mcDue := rfl
@[simp] theorem setCrBit_env : (s.setCrBit i v).env = s.env := rfl
@[simp] theorem setCrBit_mem : (s.setCrBit i v).mem = s.mem := rfl
@[simp] theorem setCrBit_dataOcm : (s.setCrBit i v).dataOcm = s.dataOcm := rfl
@[simp] theorem setCrBit_instrOcm : (s.setCrBit i v).instrOcm = s.instrOcm := rfl
@[simp] theorem setCrBit_draws : (s.setCrBit i v).draws = s.draws := rfl
@[simp] theorem setCrBit_retire : (s.setCrBit i v).retire = s.retire := rfl
@[simp] theorem setCrBit_dvcBits : (s.setCrBit i v).dvcBits = s.dvcBits := rfl
@[simp] theorem setCrBit_aheadFault : (s.setCrBit i v).aheadFault = s.aheadFault := rfl
@[simp] theorem setCrBit_reg (q : Reg) : (s.setCrBit i v).reg q = s.reg q := reg_congr (by simp) q
end setCrBit

section setCa
variable (s : State) (v : Bool)
@[simp] theorem setCa_gpr : (s.setCa v).gpr = s.gpr := rfl
@[simp] theorem setCa_pc : (s.setCa v).pc = s.pc := rfl
@[simp] theorem setCa_cr : (s.setCa v).cr = s.cr := rfl
@[simp] theorem setCa_lr : (s.setCa v).lr = s.lr := rfl
@[simp] theorem setCa_ctr : (s.setCa v).ctr = s.ctr := rfl
@[simp] theorem setCa_msr : (s.setCa v).msr = s.msr := rfl
@[simp] theorem setCa_spr : (s.setCa v).spr = s.spr := rfl
@[simp] theorem setCa_tmr : (s.setCa v).tmr = s.tmr := rfl
@[simp] theorem setCa_dbg : (s.setCa v).dbg = s.dbg := rfl
@[simp] theorem setCa_dcr : (s.setCa v).dcr = s.dcr := rfl
@[simp] theorem setCa_utlb : (s.setCa v).utlb = s.utlb := rfl
@[simp] theorem setCa_itlbOld : (s.setCa v).itlbOld = s.itlbOld := rfl
@[simp] theorem setCa_dtlbOld : (s.setCa v).dtlbOld = s.dtlbOld := rfl
@[simp] theorem setCa_icache : (s.setCa v).icache = s.icache := rfl
@[simp] theorem setCa_dcache : (s.setCa v).dcache = s.dcache := rfl
@[simp] theorem setCa_dcacheReady : (s.setCa v).dcacheReady = s.dcacheReady := rfl
@[simp] theorem setCa_icacheReady : (s.setCa v).icacheReady = s.icacheReady := rfl
@[simp] theorem setCa_oldMem : (s.setCa v).oldMem = s.oldMem := rfl
@[simp] theorem setCa_oldCode : (s.setCa v).oldCode = s.oldCode := rfl
@[simp] theorem setCa_oldLines : (s.setCa v).oldLines = s.oldLines := rfl
@[simp] theorem setCa_busFetch : (s.setCa v).busFetch = s.busFetch := rfl
@[simp] theorem setCa_ccr0Open : (s.setCa v).ccr0Open = s.ccr0Open := rfl
@[simp] theorem setCa_tlbReady : (s.setCa v).tlbReady = s.tlbReady := rfl
@[simp] theorem setCa_dfb : (s.setCa v).dfb = s.dfb := rfl
@[simp] theorem setCa_synced : (s.setCa v).synced = s.synced := rfl
@[simp] theorem setCa_reserve : (s.setCa v).reserve = s.reserve := rfl
@[simp] theorem setCa_stale : (s.setCa v).stale = s.stale := rfl
@[simp] theorem setCa_run : (s.setCa v).run = s.run := rfl
@[simp] theorem setCa_dwLatched : (s.setCa v).dwLatched = s.dwLatched := rfl
@[simp] theorem setCa_dbgPend : (s.setCa v).dbgPend = s.dbgPend := rfl
@[simp] theorem setCa_dataMC : (s.setCa v).dataMC = s.dataMC := rfl
@[simp] theorem setCa_mcDue : (s.setCa v).mcDue = s.mcDue := rfl
@[simp] theorem setCa_env : (s.setCa v).env = s.env := rfl
@[simp] theorem setCa_mem : (s.setCa v).mem = s.mem := rfl
@[simp] theorem setCa_dataOcm : (s.setCa v).dataOcm = s.dataOcm := rfl
@[simp] theorem setCa_instrOcm : (s.setCa v).instrOcm = s.instrOcm := rfl
@[simp] theorem setCa_draws : (s.setCa v).draws = s.draws := rfl
@[simp] theorem setCa_retire : (s.setCa v).retire = s.retire := rfl
@[simp] theorem setCa_dvcBits : (s.setCa v).dvcBits = s.dvcBits := rfl
@[simp] theorem setCa_aheadFault : (s.setCa v).aheadFault = s.aheadFault := rfl
@[simp] theorem setCa_reg (q : Reg) : (s.setCa v).reg q = s.reg q := reg_congr (by simp) q
end setCa

section ovIf
variable (s : State) (oe v : Bool)
@[simp] theorem ovIf_gpr : (s.ovIf oe v).gpr = s.gpr := by cases oe <;> rfl
@[simp] theorem ovIf_pc : (s.ovIf oe v).pc = s.pc := by cases oe <;> rfl
@[simp] theorem ovIf_cr : (s.ovIf oe v).cr = s.cr := by cases oe <;> rfl
@[simp] theorem ovIf_lr : (s.ovIf oe v).lr = s.lr := by cases oe <;> rfl
@[simp] theorem ovIf_ctr : (s.ovIf oe v).ctr = s.ctr := by cases oe <;> rfl
@[simp] theorem ovIf_msr : (s.ovIf oe v).msr = s.msr := by cases oe <;> rfl
@[simp] theorem ovIf_spr : (s.ovIf oe v).spr = s.spr := by cases oe <;> rfl
@[simp] theorem ovIf_tmr : (s.ovIf oe v).tmr = s.tmr := by cases oe <;> rfl
@[simp] theorem ovIf_dbg : (s.ovIf oe v).dbg = s.dbg := by cases oe <;> rfl
@[simp] theorem ovIf_dcr : (s.ovIf oe v).dcr = s.dcr := by cases oe <;> rfl
@[simp] theorem ovIf_utlb : (s.ovIf oe v).utlb = s.utlb := by cases oe <;> rfl
@[simp] theorem ovIf_itlbOld : (s.ovIf oe v).itlbOld = s.itlbOld := by cases oe <;> rfl
@[simp] theorem ovIf_dtlbOld : (s.ovIf oe v).dtlbOld = s.dtlbOld := by cases oe <;> rfl
@[simp] theorem ovIf_icache : (s.ovIf oe v).icache = s.icache := by cases oe <;> rfl
@[simp] theorem ovIf_dcache : (s.ovIf oe v).dcache = s.dcache := by cases oe <;> rfl
@[simp] theorem ovIf_dcacheReady : (s.ovIf oe v).dcacheReady = s.dcacheReady := by cases oe <;> rfl
@[simp] theorem ovIf_icacheReady : (s.ovIf oe v).icacheReady = s.icacheReady := by cases oe <;> rfl
@[simp] theorem ovIf_oldMem : (s.ovIf oe v).oldMem = s.oldMem := by cases oe <;> rfl
@[simp] theorem ovIf_oldCode : (s.ovIf oe v).oldCode = s.oldCode := by cases oe <;> rfl
@[simp] theorem ovIf_oldLines : (s.ovIf oe v).oldLines = s.oldLines := by cases oe <;> rfl
@[simp] theorem ovIf_busFetch : (s.ovIf oe v).busFetch = s.busFetch := by cases oe <;> rfl
@[simp] theorem ovIf_ccr0Open : (s.ovIf oe v).ccr0Open = s.ccr0Open := by cases oe <;> rfl
@[simp] theorem ovIf_tlbReady : (s.ovIf oe v).tlbReady = s.tlbReady := by cases oe <;> rfl
@[simp] theorem ovIf_dfb : (s.ovIf oe v).dfb = s.dfb := by cases oe <;> rfl
@[simp] theorem ovIf_synced : (s.ovIf oe v).synced = s.synced := by cases oe <;> rfl
@[simp] theorem ovIf_reserve : (s.ovIf oe v).reserve = s.reserve := by cases oe <;> rfl
@[simp] theorem ovIf_stale : (s.ovIf oe v).stale = s.stale := by cases oe <;> rfl
@[simp] theorem ovIf_run : (s.ovIf oe v).run = s.run := by cases oe <;> rfl
@[simp] theorem ovIf_dwLatched : (s.ovIf oe v).dwLatched = s.dwLatched := by cases oe <;> rfl
@[simp] theorem ovIf_dbgPend : (s.ovIf oe v).dbgPend = s.dbgPend := by cases oe <;> rfl
@[simp] theorem ovIf_dataMC : (s.ovIf oe v).dataMC = s.dataMC := by cases oe <;> rfl
@[simp] theorem ovIf_mcDue : (s.ovIf oe v).mcDue = s.mcDue := by cases oe <;> rfl
@[simp] theorem ovIf_env : (s.ovIf oe v).env = s.env := by cases oe <;> rfl
@[simp] theorem ovIf_mem : (s.ovIf oe v).mem = s.mem := by cases oe <;> rfl
@[simp] theorem ovIf_dataOcm : (s.ovIf oe v).dataOcm = s.dataOcm := by cases oe <;> rfl
@[simp] theorem ovIf_instrOcm : (s.ovIf oe v).instrOcm = s.instrOcm := by cases oe <;> rfl
@[simp] theorem ovIf_draws : (s.ovIf oe v).draws = s.draws := by cases oe <;> rfl
@[simp] theorem ovIf_retire : (s.ovIf oe v).retire = s.retire := by cases oe <;> rfl
@[simp] theorem ovIf_dvcBits : (s.ovIf oe v).dvcBits = s.dvcBits := by cases oe <;> rfl
@[simp] theorem ovIf_aheadFault : (s.ovIf oe v).aheadFault = s.aheadFault := by cases oe <;> rfl
@[simp] theorem ovIf_reg (q : Reg) : (s.ovIf oe v).reg q = s.reg q := reg_congr (by simp) q
end ovIf

section recordIf
variable (s : State) (rc : Bool) (res : Word)
@[simp] theorem recordIf_gpr : (s.recordIf rc res).gpr = s.gpr := by cases rc <;> rfl
@[simp] theorem recordIf_pc : (s.recordIf rc res).pc = s.pc := by cases rc <;> rfl
@[simp] theorem recordIf_xer : (s.recordIf rc res).xer = s.xer := by cases rc <;> rfl
@[simp] theorem recordIf_lr : (s.recordIf rc res).lr = s.lr := by cases rc <;> rfl
@[simp] theorem recordIf_ctr : (s.recordIf rc res).ctr = s.ctr := by cases rc <;> rfl
@[simp] theorem recordIf_msr : (s.recordIf rc res).msr = s.msr := by cases rc <;> rfl
@[simp] theorem recordIf_spr : (s.recordIf rc res).spr = s.spr := by cases rc <;> rfl
@[simp] theorem recordIf_tmr : (s.recordIf rc res).tmr = s.tmr := by cases rc <;> rfl
@[simp] theorem recordIf_dbg : (s.recordIf rc res).dbg = s.dbg := by cases rc <;> rfl
@[simp] theorem recordIf_dcr : (s.recordIf rc res).dcr = s.dcr := by cases rc <;> rfl
@[simp] theorem recordIf_utlb : (s.recordIf rc res).utlb = s.utlb := by cases rc <;> rfl
@[simp] theorem recordIf_itlbOld : (s.recordIf rc res).itlbOld = s.itlbOld := by cases rc <;> rfl
@[simp] theorem recordIf_dtlbOld : (s.recordIf rc res).dtlbOld = s.dtlbOld := by cases rc <;> rfl
@[simp] theorem recordIf_icache : (s.recordIf rc res).icache = s.icache := by cases rc <;> rfl
@[simp] theorem recordIf_dcache : (s.recordIf rc res).dcache = s.dcache := by cases rc <;> rfl
@[simp] theorem recordIf_dcacheReady : (s.recordIf rc res).dcacheReady = s.dcacheReady := by cases rc <;> rfl
@[simp] theorem recordIf_icacheReady : (s.recordIf rc res).icacheReady = s.icacheReady := by cases rc <;> rfl
@[simp] theorem recordIf_oldMem : (s.recordIf rc res).oldMem = s.oldMem := by cases rc <;> rfl
@[simp] theorem recordIf_oldCode : (s.recordIf rc res).oldCode = s.oldCode := by cases rc <;> rfl
@[simp] theorem recordIf_oldLines : (s.recordIf rc res).oldLines = s.oldLines := by cases rc <;> rfl
@[simp] theorem recordIf_busFetch : (s.recordIf rc res).busFetch = s.busFetch := by cases rc <;> rfl
@[simp] theorem recordIf_ccr0Open : (s.recordIf rc res).ccr0Open = s.ccr0Open := by cases rc <;> rfl
@[simp] theorem recordIf_tlbReady : (s.recordIf rc res).tlbReady = s.tlbReady := by cases rc <;> rfl
@[simp] theorem recordIf_dfb : (s.recordIf rc res).dfb = s.dfb := by cases rc <;> rfl
@[simp] theorem recordIf_synced : (s.recordIf rc res).synced = s.synced := by cases rc <;> rfl
@[simp] theorem recordIf_reserve : (s.recordIf rc res).reserve = s.reserve := by cases rc <;> rfl
@[simp] theorem recordIf_stale : (s.recordIf rc res).stale = s.stale := by cases rc <;> rfl
@[simp] theorem recordIf_run : (s.recordIf rc res).run = s.run := by cases rc <;> rfl
@[simp] theorem recordIf_dwLatched : (s.recordIf rc res).dwLatched = s.dwLatched := by cases rc <;> rfl
@[simp] theorem recordIf_dbgPend : (s.recordIf rc res).dbgPend = s.dbgPend := by cases rc <;> rfl
@[simp] theorem recordIf_dataMC : (s.recordIf rc res).dataMC = s.dataMC := by cases rc <;> rfl
@[simp] theorem recordIf_mcDue : (s.recordIf rc res).mcDue = s.mcDue := by cases rc <;> rfl
@[simp] theorem recordIf_env : (s.recordIf rc res).env = s.env := by cases rc <;> rfl
@[simp] theorem recordIf_mem : (s.recordIf rc res).mem = s.mem := by cases rc <;> rfl
@[simp] theorem recordIf_dataOcm : (s.recordIf rc res).dataOcm = s.dataOcm := by cases rc <;> rfl
@[simp] theorem recordIf_instrOcm : (s.recordIf rc res).instrOcm = s.instrOcm := by cases rc <;> rfl
@[simp] theorem recordIf_draws : (s.recordIf rc res).draws = s.draws := by cases rc <;> rfl
@[simp] theorem recordIf_retire : (s.recordIf rc res).retire = s.retire := by cases rc <;> rfl
@[simp] theorem recordIf_dvcBits : (s.recordIf rc res).dvcBits = s.dvcBits := by cases rc <;> rfl
@[simp] theorem recordIf_aheadFault : (s.recordIf rc res).aheadFault = s.aheadFault := by cases rc <;> rfl
@[simp] theorem recordIf_reg (q : Reg) : (s.recordIf rc res).reg q = s.reg q := reg_congr (by simp) q
end recordIf

section setDClass
variable (s : State) (i : BitVec 8) (c : DClass)
@[simp] theorem setDClass_gpr : (s.setDClass i c).gpr = s.gpr := rfl
@[simp] theorem setDClass_pc : (s.setDClass i c).pc = s.pc := rfl
@[simp] theorem setDClass_cr : (s.setDClass i c).cr = s.cr := rfl
@[simp] theorem setDClass_xer : (s.setDClass i c).xer = s.xer := rfl
@[simp] theorem setDClass_lr : (s.setDClass i c).lr = s.lr := rfl
@[simp] theorem setDClass_ctr : (s.setDClass i c).ctr = s.ctr := rfl
@[simp] theorem setDClass_msr : (s.setDClass i c).msr = s.msr := rfl
@[simp] theorem setDClass_spr : (s.setDClass i c).spr = s.spr := rfl
@[simp] theorem setDClass_tmr : (s.setDClass i c).tmr = s.tmr := rfl
@[simp] theorem setDClass_dbg : (s.setDClass i c).dbg = s.dbg := rfl
@[simp] theorem setDClass_dcr : (s.setDClass i c).dcr = s.dcr := rfl
@[simp] theorem setDClass_utlb : (s.setDClass i c).utlb = s.utlb := rfl
@[simp] theorem setDClass_itlbOld : (s.setDClass i c).itlbOld = s.itlbOld := rfl
@[simp] theorem setDClass_dtlbOld : (s.setDClass i c).dtlbOld = s.dtlbOld := rfl
@[simp] theorem setDClass_icache : (s.setDClass i c).icache = s.icache := rfl
@[simp] theorem setDClass_dcacheReady : (s.setDClass i c).dcacheReady = s.dcacheReady := rfl
@[simp] theorem setDClass_icacheReady : (s.setDClass i c).icacheReady = s.icacheReady := rfl
@[simp] theorem setDClass_oldMem : (s.setDClass i c).oldMem = s.oldMem := rfl
@[simp] theorem setDClass_oldCode : (s.setDClass i c).oldCode = s.oldCode := rfl
@[simp] theorem setDClass_oldLines : (s.setDClass i c).oldLines = s.oldLines := rfl
@[simp] theorem setDClass_busFetch : (s.setDClass i c).busFetch = s.busFetch := rfl
@[simp] theorem setDClass_ccr0Open : (s.setDClass i c).ccr0Open = s.ccr0Open := rfl
@[simp] theorem setDClass_tlbReady : (s.setDClass i c).tlbReady = s.tlbReady := rfl
@[simp] theorem setDClass_dfb : (s.setDClass i c).dfb = s.dfb := rfl
@[simp] theorem setDClass_synced : (s.setDClass i c).synced = s.synced := rfl
@[simp] theorem setDClass_reserve : (s.setDClass i c).reserve = s.reserve := rfl
@[simp] theorem setDClass_stale : (s.setDClass i c).stale = s.stale := rfl
@[simp] theorem setDClass_run : (s.setDClass i c).run = s.run := rfl
@[simp] theorem setDClass_dwLatched : (s.setDClass i c).dwLatched = s.dwLatched := rfl
@[simp] theorem setDClass_dbgPend : (s.setDClass i c).dbgPend = s.dbgPend := rfl
@[simp] theorem setDClass_dataMC : (s.setDClass i c).dataMC = s.dataMC := rfl
@[simp] theorem setDClass_mcDue : (s.setDClass i c).mcDue = s.mcDue := rfl
@[simp] theorem setDClass_env : (s.setDClass i c).env = s.env := rfl
@[simp] theorem setDClass_mem : (s.setDClass i c).mem = s.mem := rfl
@[simp] theorem setDClass_dataOcm : (s.setDClass i c).dataOcm = s.dataOcm := rfl
@[simp] theorem setDClass_instrOcm : (s.setDClass i c).instrOcm = s.instrOcm := rfl
@[simp] theorem setDClass_draws : (s.setDClass i c).draws = s.draws := rfl
@[simp] theorem setDClass_retire : (s.setDClass i c).retire = s.retire := rfl
@[simp] theorem setDClass_dvcBits : (s.setDClass i c).dvcBits = s.dvcBits := rfl
@[simp] theorem setDClass_aheadFault : (s.setDClass i c).aheadFault = s.aheadFault := rfl
@[simp] theorem setDClass_reg (q : Reg) : (s.setDClass i c).reg q = s.reg q := reg_congr (by simp) q
end setDClass

section setIClass
variable (s : State) (i : BitVec 8) (c : IClass)
@[simp] theorem setIClass_gpr : (s.setIClass i c).gpr = s.gpr := rfl
@[simp] theorem setIClass_pc : (s.setIClass i c).pc = s.pc := rfl
@[simp] theorem setIClass_cr : (s.setIClass i c).cr = s.cr := rfl
@[simp] theorem setIClass_xer : (s.setIClass i c).xer = s.xer := rfl
@[simp] theorem setIClass_lr : (s.setIClass i c).lr = s.lr := rfl
@[simp] theorem setIClass_ctr : (s.setIClass i c).ctr = s.ctr := rfl
@[simp] theorem setIClass_msr : (s.setIClass i c).msr = s.msr := rfl
@[simp] theorem setIClass_spr : (s.setIClass i c).spr = s.spr := rfl
@[simp] theorem setIClass_tmr : (s.setIClass i c).tmr = s.tmr := rfl
@[simp] theorem setIClass_dbg : (s.setIClass i c).dbg = s.dbg := rfl
@[simp] theorem setIClass_dcr : (s.setIClass i c).dcr = s.dcr := rfl
@[simp] theorem setIClass_utlb : (s.setIClass i c).utlb = s.utlb := rfl
@[simp] theorem setIClass_itlbOld : (s.setIClass i c).itlbOld = s.itlbOld := rfl
@[simp] theorem setIClass_dtlbOld : (s.setIClass i c).dtlbOld = s.dtlbOld := rfl
@[simp] theorem setIClass_dcache : (s.setIClass i c).dcache = s.dcache := rfl
@[simp] theorem setIClass_dcacheReady : (s.setIClass i c).dcacheReady = s.dcacheReady := rfl
@[simp] theorem setIClass_icacheReady : (s.setIClass i c).icacheReady = s.icacheReady := rfl
@[simp] theorem setIClass_oldMem : (s.setIClass i c).oldMem = s.oldMem := rfl
@[simp] theorem setIClass_oldCode : (s.setIClass i c).oldCode = s.oldCode := rfl
@[simp] theorem setIClass_oldLines : (s.setIClass i c).oldLines = s.oldLines := rfl
@[simp] theorem setIClass_busFetch : (s.setIClass i c).busFetch = s.busFetch := rfl
@[simp] theorem setIClass_ccr0Open : (s.setIClass i c).ccr0Open = s.ccr0Open := rfl
@[simp] theorem setIClass_tlbReady : (s.setIClass i c).tlbReady = s.tlbReady := rfl
@[simp] theorem setIClass_dfb : (s.setIClass i c).dfb = s.dfb := rfl
@[simp] theorem setIClass_synced : (s.setIClass i c).synced = s.synced := rfl
@[simp] theorem setIClass_reserve : (s.setIClass i c).reserve = s.reserve := rfl
@[simp] theorem setIClass_stale : (s.setIClass i c).stale = s.stale := rfl
@[simp] theorem setIClass_run : (s.setIClass i c).run = s.run := rfl
@[simp] theorem setIClass_dwLatched : (s.setIClass i c).dwLatched = s.dwLatched := rfl
@[simp] theorem setIClass_dbgPend : (s.setIClass i c).dbgPend = s.dbgPend := rfl
@[simp] theorem setIClass_dataMC : (s.setIClass i c).dataMC = s.dataMC := rfl
@[simp] theorem setIClass_mcDue : (s.setIClass i c).mcDue = s.mcDue := rfl
@[simp] theorem setIClass_env : (s.setIClass i c).env = s.env := rfl
@[simp] theorem setIClass_mem : (s.setIClass i c).mem = s.mem := rfl
@[simp] theorem setIClass_dataOcm : (s.setIClass i c).dataOcm = s.dataOcm := rfl
@[simp] theorem setIClass_instrOcm : (s.setIClass i c).instrOcm = s.instrOcm := rfl
@[simp] theorem setIClass_draws : (s.setIClass i c).draws = s.draws := rfl
@[simp] theorem setIClass_retire : (s.setIClass i c).retire = s.retire := rfl
@[simp] theorem setIClass_dvcBits : (s.setIClass i c).dvcBits = s.dvcBits := rfl
@[simp] theorem setIClass_aheadFault : (s.setIClass i c).aheadFault = s.aheadFault := rfl
@[simp] theorem setIClass_reg (q : Reg) : (s.setIClass i c).reg q = s.reg q := reg_congr (by simp) q
end setIClass

section drawWord
variable (s : State) 
@[simp] theorem drawWord_gpr : ((drawWord s).2).gpr = s.gpr := rfl
@[simp] theorem drawWord_pc : ((drawWord s).2).pc = s.pc := rfl
@[simp] theorem drawWord_cr : ((drawWord s).2).cr = s.cr := rfl
@[simp] theorem drawWord_xer : ((drawWord s).2).xer = s.xer := rfl
@[simp] theorem drawWord_lr : ((drawWord s).2).lr = s.lr := rfl
@[simp] theorem drawWord_ctr : ((drawWord s).2).ctr = s.ctr := rfl
@[simp] theorem drawWord_msr : ((drawWord s).2).msr = s.msr := rfl
@[simp] theorem drawWord_spr : ((drawWord s).2).spr = s.spr := rfl
@[simp] theorem drawWord_tmr : ((drawWord s).2).tmr = s.tmr := rfl
@[simp] theorem drawWord_dbg : ((drawWord s).2).dbg = s.dbg := rfl
@[simp] theorem drawWord_dcr : ((drawWord s).2).dcr = s.dcr := rfl
@[simp] theorem drawWord_utlb : ((drawWord s).2).utlb = s.utlb := rfl
@[simp] theorem drawWord_itlbOld : ((drawWord s).2).itlbOld = s.itlbOld := rfl
@[simp] theorem drawWord_dtlbOld : ((drawWord s).2).dtlbOld = s.dtlbOld := rfl
@[simp] theorem drawWord_icache : ((drawWord s).2).icache = s.icache := rfl
@[simp] theorem drawWord_dcache : ((drawWord s).2).dcache = s.dcache := rfl
@[simp] theorem drawWord_dcacheReady : ((drawWord s).2).dcacheReady = s.dcacheReady := rfl
@[simp] theorem drawWord_icacheReady : ((drawWord s).2).icacheReady = s.icacheReady := rfl
@[simp] theorem drawWord_oldMem : ((drawWord s).2).oldMem = s.oldMem := rfl
@[simp] theorem drawWord_oldCode : ((drawWord s).2).oldCode = s.oldCode := rfl
@[simp] theorem drawWord_oldLines : ((drawWord s).2).oldLines = s.oldLines := rfl
@[simp] theorem drawWord_busFetch : ((drawWord s).2).busFetch = s.busFetch := rfl
@[simp] theorem drawWord_ccr0Open : ((drawWord s).2).ccr0Open = s.ccr0Open := rfl
@[simp] theorem drawWord_tlbReady : ((drawWord s).2).tlbReady = s.tlbReady := rfl
@[simp] theorem drawWord_dfb : ((drawWord s).2).dfb = s.dfb := rfl
@[simp] theorem drawWord_synced : ((drawWord s).2).synced = s.synced := rfl
@[simp] theorem drawWord_reserve : ((drawWord s).2).reserve = s.reserve := rfl
@[simp] theorem drawWord_stale : ((drawWord s).2).stale = s.stale := rfl
@[simp] theorem drawWord_run : ((drawWord s).2).run = s.run := rfl
@[simp] theorem drawWord_dwLatched : ((drawWord s).2).dwLatched = s.dwLatched := rfl
@[simp] theorem drawWord_dbgPend : ((drawWord s).2).dbgPend = s.dbgPend := rfl
@[simp] theorem drawWord_dataMC : ((drawWord s).2).dataMC = s.dataMC := rfl
@[simp] theorem drawWord_mcDue : ((drawWord s).2).mcDue = s.mcDue := rfl
@[simp] theorem drawWord_env : ((drawWord s).2).env = s.env := rfl
@[simp] theorem drawWord_mem : ((drawWord s).2).mem = s.mem := rfl
@[simp] theorem drawWord_dataOcm : ((drawWord s).2).dataOcm = s.dataOcm := rfl
@[simp] theorem drawWord_instrOcm : ((drawWord s).2).instrOcm = s.instrOcm := rfl
@[simp] theorem drawWord_retire : ((drawWord s).2).retire = s.retire := rfl
@[simp] theorem drawWord_dvcBits : ((drawWord s).2).dvcBits = s.dvcBits := rfl
@[simp] theorem drawWord_aheadFault : ((drawWord s).2).aheadFault = s.aheadFault := rfl
@[simp] theorem drawWord_reg (q : Reg) : ((drawWord s).2).reg q = s.reg q := reg_congr (by simp) q
end drawWord

section drawBool
variable (s : State) 
@[simp] theorem drawBool_gpr : ((drawBool s).2).gpr = s.gpr := rfl
@[simp] theorem drawBool_pc : ((drawBool s).2).pc = s.pc := rfl
@[simp] theorem drawBool_cr : ((drawBool s).2).cr = s.cr := rfl
@[simp] theorem drawBool_xer : ((drawBool s).2).xer = s.xer := rfl
@[simp] theorem drawBool_lr : ((drawBool s).2).lr = s.lr := rfl
@[simp] theorem drawBool_ctr : ((drawBool s).2).ctr = s.ctr := rfl
@[simp] theorem drawBool_msr : ((drawBool s).2).msr = s.msr := rfl
@[simp] theorem drawBool_spr : ((drawBool s).2).spr = s.spr := rfl
@[simp] theorem drawBool_tmr : ((drawBool s).2).tmr = s.tmr := rfl
@[simp] theorem drawBool_dbg : ((drawBool s).2).dbg = s.dbg := rfl
@[simp] theorem drawBool_dcr : ((drawBool s).2).dcr = s.dcr := rfl
@[simp] theorem drawBool_utlb : ((drawBool s).2).utlb = s.utlb := rfl
@[simp] theorem drawBool_itlbOld : ((drawBool s).2).itlbOld = s.itlbOld := rfl
@[simp] theorem drawBool_dtlbOld : ((drawBool s).2).dtlbOld = s.dtlbOld := rfl
@[simp] theorem drawBool_icache : ((drawBool s).2).icache = s.icache := rfl
@[simp] theorem drawBool_dcache : ((drawBool s).2).dcache = s.dcache := rfl
@[simp] theorem drawBool_dcacheReady : ((drawBool s).2).dcacheReady = s.dcacheReady := rfl
@[simp] theorem drawBool_icacheReady : ((drawBool s).2).icacheReady = s.icacheReady := rfl
@[simp] theorem drawBool_oldMem : ((drawBool s).2).oldMem = s.oldMem := rfl
@[simp] theorem drawBool_oldCode : ((drawBool s).2).oldCode = s.oldCode := rfl
@[simp] theorem drawBool_oldLines : ((drawBool s).2).oldLines = s.oldLines := rfl
@[simp] theorem drawBool_busFetch : ((drawBool s).2).busFetch = s.busFetch := rfl
@[simp] theorem drawBool_ccr0Open : ((drawBool s).2).ccr0Open = s.ccr0Open := rfl
@[simp] theorem drawBool_tlbReady : ((drawBool s).2).tlbReady = s.tlbReady := rfl
@[simp] theorem drawBool_dfb : ((drawBool s).2).dfb = s.dfb := rfl
@[simp] theorem drawBool_synced : ((drawBool s).2).synced = s.synced := rfl
@[simp] theorem drawBool_reserve : ((drawBool s).2).reserve = s.reserve := rfl
@[simp] theorem drawBool_stale : ((drawBool s).2).stale = s.stale := rfl
@[simp] theorem drawBool_run : ((drawBool s).2).run = s.run := rfl
@[simp] theorem drawBool_dwLatched : ((drawBool s).2).dwLatched = s.dwLatched := rfl
@[simp] theorem drawBool_dbgPend : ((drawBool s).2).dbgPend = s.dbgPend := rfl
@[simp] theorem drawBool_dataMC : ((drawBool s).2).dataMC = s.dataMC := rfl
@[simp] theorem drawBool_mcDue : ((drawBool s).2).mcDue = s.mcDue := rfl
@[simp] theorem drawBool_env : ((drawBool s).2).env = s.env := rfl
@[simp] theorem drawBool_mem : ((drawBool s).2).mem = s.mem := rfl
@[simp] theorem drawBool_dataOcm : ((drawBool s).2).dataOcm = s.dataOcm := rfl
@[simp] theorem drawBool_instrOcm : ((drawBool s).2).instrOcm = s.instrOcm := rfl
@[simp] theorem drawBool_retire : ((drawBool s).2).retire = s.retire := rfl
@[simp] theorem drawBool_dvcBits : ((drawBool s).2).dvcBits = s.dvcBits := rfl
@[simp] theorem drawBool_aheadFault : ((drawBool s).2).aheadFault = s.aheadFault := rfl
@[simp] theorem drawBool_reg (q : Reg) : ((drawBool s).2).reg q = s.reg q := reg_congr (by simp) q
end drawBool

section drawCr
variable (s : State) 
@[simp] theorem drawCr_gpr : ((drawCr s).2).gpr = s.gpr := rfl
@[simp] theorem drawCr_pc : ((drawCr s).2).pc = s.pc := rfl
@[simp] theorem drawCr_cr : ((drawCr s).2).cr = s.cr := rfl
@[simp] theorem drawCr_xer : ((drawCr s).2).xer = s.xer := rfl
@[simp] theorem drawCr_lr : ((drawCr s).2).lr = s.lr := rfl
@[simp] theorem drawCr_ctr : ((drawCr s).2).ctr = s.ctr := rfl
@[simp] theorem drawCr_msr : ((drawCr s).2).msr = s.msr := rfl
@[simp] theorem drawCr_spr : ((drawCr s).2).spr = s.spr := rfl
@[simp] theorem drawCr_tmr : ((drawCr s).2).tmr = s.tmr := rfl
@[simp] theorem drawCr_dbg : ((drawCr s).2).dbg = s.dbg := rfl
@[simp] theorem drawCr_dcr : ((drawCr s).2).dcr = s.dcr := rfl
@[simp] theorem drawCr_utlb : ((drawCr s).2).utlb = s.utlb := rfl
@[simp] theorem drawCr_itlbOld : ((drawCr s).2).itlbOld = s.itlbOld := rfl
@[simp] theorem drawCr_dtlbOld : ((drawCr s).2).dtlbOld = s.dtlbOld := rfl
@[simp] theorem drawCr_icache : ((drawCr s).2).icache = s.icache := rfl
@[simp] theorem drawCr_dcache : ((drawCr s).2).dcache = s.dcache := rfl
@[simp] theorem drawCr_dcacheReady : ((drawCr s).2).dcacheReady = s.dcacheReady := rfl
@[simp] theorem drawCr_icacheReady : ((drawCr s).2).icacheReady = s.icacheReady := rfl
@[simp] theorem drawCr_oldMem : ((drawCr s).2).oldMem = s.oldMem := rfl
@[simp] theorem drawCr_oldCode : ((drawCr s).2).oldCode = s.oldCode := rfl
@[simp] theorem drawCr_oldLines : ((drawCr s).2).oldLines = s.oldLines := rfl
@[simp] theorem drawCr_busFetch : ((drawCr s).2).busFetch = s.busFetch := rfl
@[simp] theorem drawCr_ccr0Open : ((drawCr s).2).ccr0Open = s.ccr0Open := rfl
@[simp] theorem drawCr_tlbReady : ((drawCr s).2).tlbReady = s.tlbReady := rfl
@[simp] theorem drawCr_dfb : ((drawCr s).2).dfb = s.dfb := rfl
@[simp] theorem drawCr_synced : ((drawCr s).2).synced = s.synced := rfl
@[simp] theorem drawCr_reserve : ((drawCr s).2).reserve = s.reserve := rfl
@[simp] theorem drawCr_stale : ((drawCr s).2).stale = s.stale := rfl
@[simp] theorem drawCr_run : ((drawCr s).2).run = s.run := rfl
@[simp] theorem drawCr_dwLatched : ((drawCr s).2).dwLatched = s.dwLatched := rfl
@[simp] theorem drawCr_dbgPend : ((drawCr s).2).dbgPend = s.dbgPend := rfl
@[simp] theorem drawCr_dataMC : ((drawCr s).2).dataMC = s.dataMC := rfl
@[simp] theorem drawCr_mcDue : ((drawCr s).2).mcDue = s.mcDue := rfl
@[simp] theorem drawCr_env : ((drawCr s).2).env = s.env := rfl
@[simp] theorem drawCr_mem : ((drawCr s).2).mem = s.mem := rfl
@[simp] theorem drawCr_dataOcm : ((drawCr s).2).dataOcm = s.dataOcm := rfl
@[simp] theorem drawCr_instrOcm : ((drawCr s).2).instrOcm = s.instrOcm := rfl
@[simp] theorem drawCr_retire : ((drawCr s).2).retire = s.retire := rfl
@[simp] theorem drawCr_dvcBits : ((drawCr s).2).dvcBits = s.dvcBits := rfl
@[simp] theorem drawCr_aheadFault : ((drawCr s).2).aheadFault = s.aheadFault := rfl
@[simp] theorem drawCr_reg (q : Reg) : ((drawCr s).2).reg q = s.reg q := reg_congr (by simp) q
end drawCr

section drawLine
variable (s : State) 
@[simp] theorem drawLine_gpr : ((drawLine s).2).gpr = s.gpr := rfl
@[simp] theorem drawLine_pc : ((drawLine s).2).pc = s.pc := rfl
@[simp] theorem drawLine_cr : ((drawLine s).2).cr = s.cr := rfl
@[simp] theorem drawLine_xer : ((drawLine s).2).xer = s.xer := rfl
@[simp] theorem drawLine_lr : ((drawLine s).2).lr = s.lr := rfl
@[simp] theorem drawLine_ctr : ((drawLine s).2).ctr = s.ctr := rfl
@[simp] theorem drawLine_msr : ((drawLine s).2).msr = s.msr := rfl
@[simp] theorem drawLine_spr : ((drawLine s).2).spr = s.spr := rfl
@[simp] theorem drawLine_tmr : ((drawLine s).2).tmr = s.tmr := rfl
@[simp] theorem drawLine_dbg : ((drawLine s).2).dbg = s.dbg := rfl
@[simp] theorem drawLine_dcr : ((drawLine s).2).dcr = s.dcr := rfl
@[simp] theorem drawLine_utlb : ((drawLine s).2).utlb = s.utlb := rfl
@[simp] theorem drawLine_itlbOld : ((drawLine s).2).itlbOld = s.itlbOld := rfl
@[simp] theorem drawLine_dtlbOld : ((drawLine s).2).dtlbOld = s.dtlbOld := rfl
@[simp] theorem drawLine_icache : ((drawLine s).2).icache = s.icache := rfl
@[simp] theorem drawLine_dcache : ((drawLine s).2).dcache = s.dcache := rfl
@[simp] theorem drawLine_dcacheReady : ((drawLine s).2).dcacheReady = s.dcacheReady := rfl
@[simp] theorem drawLine_icacheReady : ((drawLine s).2).icacheReady = s.icacheReady := rfl
@[simp] theorem drawLine_oldMem : ((drawLine s).2).oldMem = s.oldMem := rfl
@[simp] theorem drawLine_oldCode : ((drawLine s).2).oldCode = s.oldCode := rfl
@[simp] theorem drawLine_oldLines : ((drawLine s).2).oldLines = s.oldLines := rfl
@[simp] theorem drawLine_busFetch : ((drawLine s).2).busFetch = s.busFetch := rfl
@[simp] theorem drawLine_ccr0Open : ((drawLine s).2).ccr0Open = s.ccr0Open := rfl
@[simp] theorem drawLine_tlbReady : ((drawLine s).2).tlbReady = s.tlbReady := rfl
@[simp] theorem drawLine_dfb : ((drawLine s).2).dfb = s.dfb := rfl
@[simp] theorem drawLine_synced : ((drawLine s).2).synced = s.synced := rfl
@[simp] theorem drawLine_reserve : ((drawLine s).2).reserve = s.reserve := rfl
@[simp] theorem drawLine_stale : ((drawLine s).2).stale = s.stale := rfl
@[simp] theorem drawLine_run : ((drawLine s).2).run = s.run := rfl
@[simp] theorem drawLine_dwLatched : ((drawLine s).2).dwLatched = s.dwLatched := rfl
@[simp] theorem drawLine_dbgPend : ((drawLine s).2).dbgPend = s.dbgPend := rfl
@[simp] theorem drawLine_dataMC : ((drawLine s).2).dataMC = s.dataMC := rfl
@[simp] theorem drawLine_mcDue : ((drawLine s).2).mcDue = s.mcDue := rfl
@[simp] theorem drawLine_env : ((drawLine s).2).env = s.env := rfl
@[simp] theorem drawLine_mem : ((drawLine s).2).mem = s.mem := rfl
@[simp] theorem drawLine_dataOcm : ((drawLine s).2).dataOcm = s.dataOcm := rfl
@[simp] theorem drawLine_instrOcm : ((drawLine s).2).instrOcm = s.instrOcm := rfl
@[simp] theorem drawLine_retire : ((drawLine s).2).retire = s.retire := rfl
@[simp] theorem drawLine_dvcBits : ((drawLine s).2).dvcBits = s.dvcBits := rfl
@[simp] theorem drawLine_aheadFault : ((drawLine s).2).aheadFault = s.aheadFault := rfl
@[simp] theorem drawLine_reg (q : Reg) : ((drawLine s).2).reg q = s.reg q := reg_congr (by simp) q
end drawLine

section contextSync
variable (s : State) 
@[simp] theorem contextSync_gpr : (s.contextSync).gpr = s.gpr := rfl
@[simp] theorem contextSync_pc : (s.contextSync).pc = s.pc := rfl
@[simp] theorem contextSync_cr : (s.contextSync).cr = s.cr := rfl
@[simp] theorem contextSync_xer : (s.contextSync).xer = s.xer := rfl
@[simp] theorem contextSync_lr : (s.contextSync).lr = s.lr := rfl
@[simp] theorem contextSync_ctr : (s.contextSync).ctr = s.ctr := rfl
@[simp] theorem contextSync_msr : (s.contextSync).msr = s.msr := rfl
@[simp] theorem contextSync_spr : (s.contextSync).spr = s.spr := rfl
@[simp] theorem contextSync_tmr : (s.contextSync).tmr = s.tmr := rfl
@[simp] theorem contextSync_dbg : (s.contextSync).dbg = s.dbg := rfl
@[simp] theorem contextSync_dcr : (s.contextSync).dcr = s.dcr := rfl
@[simp] theorem contextSync_utlb : (s.contextSync).utlb = s.utlb := rfl
@[simp] theorem contextSync_icache : (s.contextSync).icache = s.icache := rfl
@[simp] theorem contextSync_dcache : (s.contextSync).dcache = s.dcache := rfl
@[simp] theorem contextSync_dcacheReady : (s.contextSync).dcacheReady = s.dcacheReady := rfl
@[simp] theorem contextSync_icacheReady : (s.contextSync).icacheReady = s.icacheReady := rfl
@[simp] theorem contextSync_oldMem : (s.contextSync).oldMem = s.oldMem := rfl
@[simp] theorem contextSync_dfb : (s.contextSync).dfb = s.dfb := rfl
@[simp] theorem contextSync_synced : (s.contextSync).synced = s.synced := rfl
@[simp] theorem contextSync_reserve : (s.contextSync).reserve = s.reserve := rfl
@[simp] theorem contextSync_run : (s.contextSync).run = s.run := rfl
@[simp] theorem contextSync_dwLatched : (s.contextSync).dwLatched = s.dwLatched := rfl
@[simp] theorem contextSync_dbgPend : (s.contextSync).dbgPend = s.dbgPend := rfl
@[simp] theorem contextSync_dataMC : (s.contextSync).dataMC = s.dataMC := rfl
@[simp] theorem contextSync_mcDue : (s.contextSync).mcDue = s.mcDue := rfl
@[simp] theorem contextSync_env : (s.contextSync).env = s.env := rfl
@[simp] theorem contextSync_mem : (s.contextSync).mem = s.mem := rfl
@[simp] theorem contextSync_dataOcm : (s.contextSync).dataOcm = s.dataOcm := rfl
@[simp] theorem contextSync_instrOcm : (s.contextSync).instrOcm = s.instrOcm := rfl
@[simp] theorem contextSync_draws : (s.contextSync).draws = s.draws := rfl
@[simp] theorem contextSync_retire : (s.contextSync).retire = s.retire := rfl
@[simp] theorem contextSync_dvcBits : (s.contextSync).dvcBits = s.dvcBits := rfl
@[simp] theorem contextSync_aheadFault : (s.contextSync).aheadFault = s.aheadFault := rfl
@[simp] theorem contextSync_reg (q : Reg) : (s.contextSync).reg q = s.reg q := reg_congr (by simp) q
end contextSync

section storageSync
variable (s : State) 
@[simp] theorem storageSync_gpr : (s.storageSync).gpr = s.gpr := rfl
@[simp] theorem storageSync_pc : (s.storageSync).pc = s.pc := rfl
@[simp] theorem storageSync_cr : (s.storageSync).cr = s.cr := rfl
@[simp] theorem storageSync_xer : (s.storageSync).xer = s.xer := rfl
@[simp] theorem storageSync_lr : (s.storageSync).lr = s.lr := rfl
@[simp] theorem storageSync_ctr : (s.storageSync).ctr = s.ctr := rfl
@[simp] theorem storageSync_msr : (s.storageSync).msr = s.msr := rfl
@[simp] theorem storageSync_spr : (s.storageSync).spr = s.spr := rfl
@[simp] theorem storageSync_tmr : (s.storageSync).tmr = s.tmr := rfl
@[simp] theorem storageSync_dbg : (s.storageSync).dbg = s.dbg := rfl
@[simp] theorem storageSync_dcr : (s.storageSync).dcr = s.dcr := rfl
@[simp] theorem storageSync_utlb : (s.storageSync).utlb = s.utlb := rfl
@[simp] theorem storageSync_itlbOld : (s.storageSync).itlbOld = s.itlbOld := rfl
@[simp] theorem storageSync_dtlbOld : (s.storageSync).dtlbOld = s.dtlbOld := rfl
@[simp] theorem storageSync_icache : (s.storageSync).icache = s.icache := rfl
@[simp] theorem storageSync_dcache : (s.storageSync).dcache = s.dcache := rfl
@[simp] theorem storageSync_dcacheReady : (s.storageSync).dcacheReady = s.dcacheReady := rfl
@[simp] theorem storageSync_icacheReady : (s.storageSync).icacheReady = s.icacheReady := rfl
@[simp] theorem storageSync_oldLines : (s.storageSync).oldLines = s.oldLines := rfl
@[simp] theorem storageSync_busFetch : (s.storageSync).busFetch = s.busFetch := rfl
@[simp] theorem storageSync_ccr0Open : (s.storageSync).ccr0Open = s.ccr0Open := rfl
@[simp] theorem storageSync_tlbReady : (s.storageSync).tlbReady = s.tlbReady := rfl
@[simp] theorem storageSync_reserve : (s.storageSync).reserve = s.reserve := rfl
@[simp] theorem storageSync_stale : (s.storageSync).stale = s.stale := rfl
@[simp] theorem storageSync_run : (s.storageSync).run = s.run := rfl
@[simp] theorem storageSync_dwLatched : (s.storageSync).dwLatched = s.dwLatched := rfl
@[simp] theorem storageSync_dbgPend : (s.storageSync).dbgPend = s.dbgPend := rfl
@[simp] theorem storageSync_dataMC : (s.storageSync).dataMC = s.dataMC := rfl
@[simp] theorem storageSync_env : (s.storageSync).env = s.env := rfl
@[simp] theorem storageSync_mem : (s.storageSync).mem = s.mem := rfl
@[simp] theorem storageSync_dataOcm : (s.storageSync).dataOcm = s.dataOcm := rfl
@[simp] theorem storageSync_instrOcm : (s.storageSync).instrOcm = s.instrOcm := rfl
@[simp] theorem storageSync_draws : (s.storageSync).draws = s.draws := rfl
@[simp] theorem storageSync_retire : (s.storageSync).retire = s.retire := rfl
@[simp] theorem storageSync_dvcBits : (s.storageSync).dvcBits = s.dvcBits := rfl
@[simp] theorem storageSync_aheadFault : (s.storageSync).aheadFault = s.aheadFault := rfl
@[simp] theorem storageSync_reg (q : Reg) : (s.storageSync).reg q = s.reg q := reg_congr (by simp) q
end storageSync

section drawBelow
variable (s : State) (n : Nat)
@[simp] theorem drawBelow_gpr : ((drawBelow n s).2).gpr = s.gpr := rfl
@[simp] theorem drawBelow_pc : ((drawBelow n s).2).pc = s.pc := rfl
@[simp] theorem drawBelow_cr : ((drawBelow n s).2).cr = s.cr := rfl
@[simp] theorem drawBelow_xer : ((drawBelow n s).2).xer = s.xer := rfl
@[simp] theorem drawBelow_lr : ((drawBelow n s).2).lr = s.lr := rfl
@[simp] theorem drawBelow_ctr : ((drawBelow n s).2).ctr = s.ctr := rfl
@[simp] theorem drawBelow_msr : ((drawBelow n s).2).msr = s.msr := rfl
@[simp] theorem drawBelow_spr : ((drawBelow n s).2).spr = s.spr := rfl
@[simp] theorem drawBelow_tmr : ((drawBelow n s).2).tmr = s.tmr := rfl
@[simp] theorem drawBelow_dbg : ((drawBelow n s).2).dbg = s.dbg := rfl
@[simp] theorem drawBelow_dcr : ((drawBelow n s).2).dcr = s.dcr := rfl
@[simp] theorem drawBelow_utlb : ((drawBelow n s).2).utlb = s.utlb := rfl
@[simp] theorem drawBelow_itlbOld : ((drawBelow n s).2).itlbOld = s.itlbOld := rfl
@[simp] theorem drawBelow_dtlbOld : ((drawBelow n s).2).dtlbOld = s.dtlbOld := rfl
@[simp] theorem drawBelow_icache : ((drawBelow n s).2).icache = s.icache := rfl
@[simp] theorem drawBelow_dcache : ((drawBelow n s).2).dcache = s.dcache := rfl
@[simp] theorem drawBelow_dcacheReady : ((drawBelow n s).2).dcacheReady = s.dcacheReady := rfl
@[simp] theorem drawBelow_icacheReady : ((drawBelow n s).2).icacheReady = s.icacheReady := rfl
@[simp] theorem drawBelow_oldMem : ((drawBelow n s).2).oldMem = s.oldMem := rfl
@[simp] theorem drawBelow_oldCode : ((drawBelow n s).2).oldCode = s.oldCode := rfl
@[simp] theorem drawBelow_oldLines : ((drawBelow n s).2).oldLines = s.oldLines := rfl
@[simp] theorem drawBelow_busFetch : ((drawBelow n s).2).busFetch = s.busFetch := rfl
@[simp] theorem drawBelow_ccr0Open : ((drawBelow n s).2).ccr0Open = s.ccr0Open := rfl
@[simp] theorem drawBelow_tlbReady : ((drawBelow n s).2).tlbReady = s.tlbReady := rfl
@[simp] theorem drawBelow_dfb : ((drawBelow n s).2).dfb = s.dfb := rfl
@[simp] theorem drawBelow_synced : ((drawBelow n s).2).synced = s.synced := rfl
@[simp] theorem drawBelow_reserve : ((drawBelow n s).2).reserve = s.reserve := rfl
@[simp] theorem drawBelow_stale : ((drawBelow n s).2).stale = s.stale := rfl
@[simp] theorem drawBelow_run : ((drawBelow n s).2).run = s.run := rfl
@[simp] theorem drawBelow_dwLatched : ((drawBelow n s).2).dwLatched = s.dwLatched := rfl
@[simp] theorem drawBelow_dbgPend : ((drawBelow n s).2).dbgPend = s.dbgPend := rfl
@[simp] theorem drawBelow_dataMC : ((drawBelow n s).2).dataMC = s.dataMC := rfl
@[simp] theorem drawBelow_mcDue : ((drawBelow n s).2).mcDue = s.mcDue := rfl
@[simp] theorem drawBelow_env : ((drawBelow n s).2).env = s.env := rfl
@[simp] theorem drawBelow_mem : ((drawBelow n s).2).mem = s.mem := rfl
@[simp] theorem drawBelow_dataOcm : ((drawBelow n s).2).dataOcm = s.dataOcm := rfl
@[simp] theorem drawBelow_instrOcm : ((drawBelow n s).2).instrOcm = s.instrOcm := rfl
@[simp] theorem drawBelow_retire : ((drawBelow n s).2).retire = s.retire := rfl
@[simp] theorem drawBelow_dvcBits : ((drawBelow n s).2).dvcBits = s.dvcBits := rfl
@[simp] theorem drawBelow_aheadFault : ((drawBelow n s).2).aheadFault = s.aheadFault := rfl
@[simp] theorem drawBelow_reg (q : Reg) : ((drawBelow n s).2).reg q = s.reg q := reg_congr (by simp) q
end drawBelow

/-! ### Congruence classes -/

@[simp] theorem dClass_setDClass_self (s : State) (i : BitVec 8) (c : DClass) : (s.setDClass i c).dClass i = c := by
  simp [State.dClass, State.setDClass]

theorem dClass_setDClass_ne (s : State) {i j : BitVec 8} (c : DClass) (h : j ≠ i) :
    (s.setDClass i c).dClass j = s.dClass j := by
  simp only [State.dClass, State.setDClass]
  exact Vector.getElem_set_ne _ _ (fun e => h (BitVec.eq_of_toNat_eq e).symm)

@[simp] theorem iClass_setIClass_self (s : State) (i : BitVec 8) (c : IClass) : (s.setIClass i c).iClass i = c := by
  simp [State.iClass, State.setIClass]

theorem iClass_setIClass_ne (s : State) {i j : BitVec 8} (c : IClass) (h : j ≠ i) :
    (s.setIClass i c).iClass j = s.iClass j := by
  simp only [State.iClass, State.setIClass]
  exact Vector.getElem_set_ne _ _ (fun e => h (BitVec.eq_of_toNat_eq e).symm)

/-! ### Flags -/

/-- XER after `ovIf`. -/
theorem ovIf_xer (s : State) (oe v : Bool) : (s.ovIf oe v).xer = if oe then withOv s.xer v else s.xer := by
  cases oe <;> rfl

/-- CR after `recordIf`. -/
theorem recordIf_cr (s : State) (rc : Bool) (res : Word) :
    (s.recordIf rc res).cr = if rc then withCrField s.cr 0#3 (recordBits res s.so) else s.cr := by
  cases rc <;> rfl

end Sys2Proof.Machine
end

