-- ==== Sys2Proof/Laws/DataSide.lean ====
section
/-! SUPPORT. Laws/DataSide.lean: everything the data side of the processor can do to the state. Each operation of
Machine/Cache.lean, Machine/Access.lean and Machine/CacheOps.lean that completes relates its states by `DataSide`; one that ends
the instruction relates them by `Ended`. -/

namespace Sys2Proof.Machine

/-- What an operation of the data side may change, and what it keeps. -/
structure DataSide (s t : State) : Prop where
  frame : t = { s with
    dcache := t.dcache, mem := t.mem, dataOcm := t.dataOcm, oldMem := t.oldMem, dfb := t.dfb, synced := t.synced
    draws := t.draws, dvcBits := t.dvcBits, dataMC := t.dataMC, mcDue := t.mcDue
    spr := { s.spr with mcsr := t.spr.mcsr }, dbg := { s.dbg with dbsr := t.dbg.dbsr }
    tmr := { s.tmr with frozen := t.tmr.frozen } }
  wf : s.memoriesWf → t.memoriesWf
  distinct : s.linesDistinct → t.linesDistinct
  bus : s.quietBus → t.spr.mcsr = s.spr.mcsr ∧ (t.dataMC = true → s.dataMC = true)
  calm : s.noDebug → t.dbg = s.dbg ∧ t.tmr = s.tmr ∧ (s.dvcBits = 0#32 → t.dvcBits = 0#32)

theorem DataSide.refl (s : State) : DataSide s s := ⟨rfl, id, id, fun _ => ⟨rfl, id⟩, fun _ => ⟨rfl, rfl, id⟩⟩

theorem DataSide.env {s t : State} (h : DataSide s t) : t.env = s.env := by rw [h.frame]
theorem DataSide.pc {s t : State} (h : DataSide s t) : t.pc = s.pc := by rw [h.frame]
theorem DataSide.noDebug {s t : State} (h : DataSide s t) (hn : s.noDebug) : t.noDebug := by
  rw [h.frame]
  exact ⟨hn.dbcr0, hn.dbcr1, hn.now0, hn.now1⟩

theorem DataSide.trans {s t u : State} (h : DataSide s t) (h' : DataSide t u) : DataSide s u where
  frame := by rw [h'.frame, h.frame]
  wf := h'.wf ∘ h.wf
  distinct := h'.distinct ∘ h.distinct
  bus hq := by
    have hq' : t.quietBus := by unfold State.quietBus; rw [h.env]; exact hq
    exact ⟨(h'.bus hq').1.trans (h.bus hq).1, (h.bus hq).2 ∘ (h'.bus hq').2⟩
  calm hn := by
    have k := h.calm hn
    have k' := h'.calm (h.noDebug hn)
    exact ⟨k'.1.trans k.1, k'.2.1.trans k.2.1, k'.2.2 ∘ k.2.2⟩

/-- A change of the fill buffer, of the counter of free values, of the record of storage accesses, and the end of a data machine
check only. -/
theorem DataSide.of_light {s t : State}
    (h : t = { s with dfb := t.dfb, draws := t.draws, synced := t.synced, mcDue := t.mcDue, dataMC := t.dataMC })
    (hd : t.dataMC = true → s.dataMC = true) : DataSide s t where
  frame := by rw [h]
  wf := by rw [h]; exact id
  distinct := by rw [h]; exact id
  bus _ := ⟨by rw [h], hd⟩
  calm _ := by rw [h]; exact ⟨rfl, rfl, id⟩

/-- A change of the fill buffer and of the counter of free values only. -/
theorem DataSide.of_draws {s t : State} (h : t = { s with dfb := t.dfb, draws := t.draws }) : DataSide s t :=
  .of_light (by rw [h]) (by rw [h]; exact id)

theorem drawBytes_light (n : Nat) (s : State) : (drawBytes n s).2 = { s with draws := (drawBytes n s).2.draws } := by
  induction n generalizing s with
  | zero => rfl
  | succ n ih => simp only [drawBytes]; rw [ih]

theorem dataSide_drawBytes (n : Nat) (s : State) : DataSide s (drawBytes n s).2 :=
  .of_draws (by rw [drawBytes_light])

theorem dataSide_drawBool (s : State) : DataSide s (drawBool s).2 := .of_draws rfl

/-! ### The bus -/

theorem dataSide_writeSys (a : Word) (bs : List (Option Byte)) (s : State) : DataSide s (writeSys a bs s) :=
  ⟨rfl, fun h => ⟨Memory.writeSome_wf h.1 a bs, h.2⟩, id, fun _ => ⟨rfl, id⟩, fun _ => ⟨rfl, rfl, id⟩⟩

/-- On a quiet bus there is memory everywhere. -/
theorem memKind_quiet {s : State} (h : s.quietBus) (a : Word) : s.memKind a = .ram := by
  unfold State.quietBus at h; simp [State.memKind, h]

/-- A kind stands behind one of several bytes. -/
theorem anyKind_iff {s : State} {k : MemKind} {a : Word} {n : Nat} :
    s.anyKind k a n = true ↔ ∃ i, i < n ∧ s.memKind (a + BitVec.ofNat 32 i) = k := by
  simp [State.anyKind]

/-- Bytes of one kind are of no other. -/
theorem anyKind_false {s : State} {k j : MemKind} (hkj : j ≠ k) {a : Word} {n : Nat}
    (h : ∀ i, i < n → s.memKind (a + BitVec.ofNat 32 i) = j) : s.anyKind k a n = false := by
  rw [Bool.eq_false_iff]
  intro hk
  obtain ⟨i, hi, e⟩ := anyKind_iff.mp hk
  exact hkj ((h i hi).symm.trans e)

/-- On a quiet bus nothing answers with an error. -/
theorem busError_quiet {s : State} (h : s.quietBus) (a : Word) (n : Nat) : s.busError a n = false :=
  anyKind_false (by decide) fun _ _ => memKind_quiet h _

/-- A reported bus error: only where the bus is not quiet. -/
theorem dataSide_reportDataError {s : State} (hq : ¬ s.quietBus) : DataSide s (reportDataError s) := by
  unfold reportDataError
  split <;> exact ⟨rfl, id, id, fun c => absurd c hq, fun _ => ⟨rfl, rfl, id⟩⟩

theorem not_quiet_of_busError {s : State} {a : Word} {n : Nat} (h : s.busError a n = true) : ¬ s.quietBus :=
  fun hq => by rw [busError_quiet hq] at h; cases h

theorem busByte_light (a : Word) (s : State) : (busByte a s).2 = { s with draws := (busByte a s).2.draws } := by
  unfold busByte
  split <;> rfl

theorem busRead_light (a : Word) (n : Nat) (s : State) : (busRead a n s).2 = { s with draws := (busRead a n s).2.draws } := by
  induction n generalizing a s with
  | zero => rfl
  | succ n ih =>
    simp only [busRead]
    rw [ih, busByte_light]

theorem busReadLine_light (a : Word) (s : State) : (busReadLine a s).2 = { s with draws := (busReadLine a s).2.draws } := by
  simp only [busReadLine]
  exact busRead_light (lineAlign a) 32 s

/-- A line read over the bus draws free values only. -/
theorem dataSide_busReadLine (a : Word) (s : State) : DataSide s (busReadLine a s).2 := by
  have h := busReadLine_light a s
  generalize (busReadLine a s).2 = t at h
  exact .of_draws (by rw [h])

theorem acceptedBytes_light (failed : Bool) (a : Word) (bs : List Byte) (s : State) :
    (acceptedBytes failed a bs s).2 = { s with draws := (acceptedBytes failed a bs s).2.draws } := by
  induction bs generalizing a s with
  | nil => rfl
  | cons b bs ih =>
    simp only [acceptedBytes]
    rw [ih]
    cases failed <;> rfl

/-- Everything a bus write can do: it writes some of its bytes to memory, and what it reports is an error of the bus. -/
theorem busWrite_ok {failed : Bool} {a : Word} {bs : List Byte} {s t : State} (h : busWrite failed a bs s = .ok () t) :
    ∃ bs' u, t = writeSys a bs' u ∧
      u = { (if s.busError a bs.length then reportDataError s else s) with draws := u.draws } := by
  unfold busWrite at h
  split at h
  · cases h
  · simp only [Res.ok.injEq, true_and] at h
    exact ⟨_, _, h.symm, acceptedBytes_light _ _ _ _⟩

/-- A part of a result: where the operation completes, its states are related by `DataSide`; it never ends the instruction. -/
def Res.DataSide {α : Type} (s : State) : Res α → Prop
  | .ok _ t => Machine.DataSide s t
  | .stop _ => False
  | .fault _ => True

theorem Res.DataSide.bind {α β : Type} {s u : State} {r : Res α} {k : α → State → Res β} (hu : Machine.DataSide s u)
    (h : r.DataSide u) (hk : ∀ a t, Machine.DataSide s t → (k a t).DataSide s) : (r.bind k).DataSide s := by
  cases r with
  | ok a t => exact hk a t (hu.trans h)
  | stop t => exact h.elim
  | fault f => trivial

/-- The same after something else that the data side did. -/
theorem DataSide.after {α : Type} {s u : State} {r : Res α} (hu : Machine.DataSide s u) (h : r.DataSide u) : r.DataSide s := by
  cases r with
  | ok a t => exact hu.trans h
  | stop t => exact h.elim
  | fault f => trivial

theorem busWrite_cases (failed : Bool) (a : Word) (bs : List Byte) (s : State) :
    busWrite failed a bs s = .fault .writeToNothing ∨ ∃ t, busWrite failed a bs s = .ok () t := by
  unfold busWrite
  split
  · exact .inl rfl
  · exact .inr ⟨_, rfl⟩

theorem dataSide_busWrite (failed : Bool) (a : Word) (bs : List Byte) (s : State) : (busWrite failed a bs s).DataSide s := by
  rcases busWrite_cases failed a bs s with e | ⟨t, e⟩
  · rw [e]; trivial
  · obtain ⟨bs', u, rfl, hu⟩ := busWrite_ok e
    rw [e]
    have h1 : DataSide s (if s.busError a bs.length then reportDataError s else s) := by
      split
      · exact dataSide_reportDataError (not_quiet_of_busError ‹_›)
      · exact .refl s
    exact (h1.trans (.of_draws (by rw [hu]))).trans (dataSide_writeSys _ _ _)

/-! ### Classes of the data cache -/

theorem dClass_setDClass (s : State) (i j : BitVec 8) (c : DClass) :
    (s.setDClass i c).dClass j = if j = i then c else s.dClass j := by
  simp only [State.dClass, State.setDClass]
  by_cases h : j = i
  · subst h; simp
  · have : i.toNat ≠ j.toNat := fun e => h (BitVec.eq_of_toNat_eq e).symm
    rw [Vector.getElem_set_ne _ _ this]
    simp [h]

/-- A class replaced by one whose lines differ. -/
theorem dataSide_setDClass {s : State} {i : BitVec 8} {c : DClass}
    (h : s.distinctLines i → c.wayA.valid = true → c.wayB.valid = true → c.wayA.tag ≠ c.wayB.tag) :
    DataSide s (s.setDClass i c) := by
  refine ⟨rfl, id, fun hd j => ?_, fun _ => ⟨rfl, id⟩, fun _ => ⟨rfl, rfl, id⟩⟩
  unfold State.distinctLines
  rw [dClass_setDClass]
  split
  · exact h (hd i)
  · exact hd j

/-- A line replaced by one with the same tag, or by one that is not valid. -/
theorem distinct_setLine {c : DClass} {w : Way} {l : DLine}
    (hl : l.valid = true → (c.line w).valid = true ∧ l.tag = (c.line w).tag)
    (h : c.wayA.valid = true → c.wayB.valid = true → c.wayA.tag ≠ c.wayB.tag) :
    (c.setLine w l).wayA.valid = true → (c.setLine w l).wayB.valid = true → (c.setLine w l).wayA.tag ≠ (c.setLine w l).wayB.tag := by
  cases w
  · intro h1 h2
    obtain ⟨h3, h4⟩ := hl h1
    show l.tag ≠ c.wayB.tag
    rw [h4]
    exact h h3 h2
  · intro h1 h2
    obtain ⟨h3, h4⟩ := hl h2
    show c.wayA.tag ≠ l.tag
    rw [h4]
    exact h h1 h3

/-- A tag that a class does not find is in none of its valid lines. -/
theorem find_none {c : DClass} {t : BitVec 19} (hf : c.find t = none) (w : Way) (hv : (c.line w).valid = true) :
    (c.line w).tag ≠ t := by
  intro e
  cases w <;> cases ha : c.wayA.valid && c.wayA.tag == t <;> simp_all [DClass.find, DClass.line]

/-- A line placed where no line of the class has its tag. -/
theorem distinct_place {c : DClass} {t : BitVec 19} (hf : c.find t = none) (w : Way) {l : DLine} (ht : l.tag = t) :
    (c.setLine w l).wayA.valid = true → (c.setLine w l).wayB.valid = true → (c.setLine w l).wayA.tag ≠ (c.setLine w l).wayB.tag := by
  subst ht
  cases w
  · exact fun _ hb e => find_none hf .b hb e.symm
  · exact fun ha _ => find_none hf .a ha

/-- A bus write leaves the caches. -/
theorem busWrite_dcache {failed : Bool} {a : Word} {bs : List Byte} {s t : State} (h : busWrite failed a bs s = .ok () t) :
    t.dcache = s.dcache := by
  obtain ⟨bs', u, rfl, hu⟩ := busWrite_ok h
  unfold writeSys
  rw [hu]
  unfold reportDataError
  split
  · split <;> rfl
  · rfl

/-- Casting a line out leaves the cache. -/
theorem writeBack_dcache {i : BitVec 8} {w : Way} {s t : State} (h : writeBack i w s = .ok () t) : t.dcache = s.dcache := by
  unfold writeBack at h
  simp only [] at h
  split at h
  · exact busWrite_dcache h
  · cases h; rfl

theorem dataSide_writeBack (i : BitVec 8) (w : Way) (s : State) : (writeBack i w s).DataSide s := by
  unfold writeBack
  simp only []
  split
  · exact dataSide_busWrite _ _ _ _
  · exact .refl s

theorem dVictim_light (i : BitVec 8) (s : State) : (dVictim i s).2 = { s with draws := (dVictim i s).2.draws } := by
  unfold dVictim
  simp only []
  split <;> rfl

theorem dataSide_dVictim (i : BitVec 8) (s : State) : DataSide s (dVictim i s).2 :=
  .of_draws (by rw [dVictim_light])

/-- A line allocated for an address that no line holds. -/
theorem dataSide_dAllocate {ra : Word} (data : BitVec 256) (dirty : Bool) {s : State} (h : s.dHit ra = none) :
    (dAllocate ra data dirty s).DataSide s := by
  unfold dAllocate
  simp only []
  have hw := dataSide_writeBack (classIndex ra) (dVictim (classIndex ra) s).1 (dVictim (classIndex ra) s).2
  cases e : writeBack (classIndex ra) (dVictim (classIndex ra) s).1 (dVictim (classIndex ra) s).2 with
  | stop t => rw [e] at hw; exact hw.elim
  | fault f => trivial
  | ok a t =>
    rw [e] at hw
    have hc : t.dClass (classIndex ra) = s.dClass (classIndex ra) := by
      have : t.dcache = s.dcache := by rw [writeBack_dcache e, dVictim_light]
      simp only [State.dClass, this]
    refine ((dataSide_dVictim _ _).trans hw).trans (dataSide_setDClass fun _ => ?_)
    rw [hc]
    exact distinct_place (c := s.dClass (classIndex ra)) h _ rfl

/-- The fill buffer emptied. -/
theorem dataSide_noBuffer (s : State) : DataSide s { s with dfb := none } := .of_draws rfl

/-- A reported bus error takes the fill buffer. -/
theorem dataSide_failed {a : Word} {n : Nat} {s : State} (h : s.busError a n = true) :
    DataSide s (reportDataError { s with dfb := none }) :=
  (dataSide_noBuffer s).trans (dataSide_reportDataError (s := { s with dfb := none }) (not_quiet_of_busError (s := s) h))

theorem dataSide_dFill {ra : Word} {s : State} (h : s.dHit ra = none) : (dFill ra s).DataSide s := by
  unfold dFill
  split
  · exact dataSide_failed ‹_›
  · have h1 := (dataSide_noBuffer s).trans (dataSide_busReadLine ra { s with dfb := none })
    have h2 : (busReadLine ra { s with dfb := none }).2.dHit ra = none := by rw [busReadLine_light]; exact h
    generalize busReadLine ra { s with dfb := none } = r at *
    exact h1.after (dataSide_dAllocate _ _ h2)

theorem dataSide_dInvalidate (i : BitVec 8) (w : Way) (s : State) : DataSide s (dInvalidate i w s) := by
  refine (dataSide_drawBool s).trans (dataSide_setDClass fun hd => ?_)
  exact distinct_setLine (fun hv => absurd hv (by simp)) hd

theorem dropFillBuffer_light (ra : Word) (s : State) : dropFillBuffer ra s = { s with dfb := (dropFillBuffer ra s).dfb } := by
  unfold dropFillBuffer
  split
  · rfl
  · split <;> rfl

theorem dataSide_dropFillBuffer (ra : Word) (s : State) : DataSide s (dropFillBuffer ra s) :=
  .of_draws (by rw [dropFillBuffer_light])

theorem dropFillBuffer_dHit (ra a : Word) (s : State) : (dropFillBuffer ra s).dHit a = s.dHit a := by
  rw [dropFillBuffer_light]; rfl

/-! ### Parts of an access -/

theorem dataSide_uncachedLoad (x : Xlat) (n : Nat) (s : State) : DataSide s (uncachedLoad x n s).2 := by
  unfold uncachedLoad
  split
  · exact .refl s
  · split
    · split
      · exact (dataSide_failed ‹_›).trans (dataSide_drawBytes _ _)
      · have h := dataSide_busReadLine x.ra s
        generalize busReadLine x.ra s = r at *
        exact h.trans (.of_draws rfl)
    · split
      · exact (dataSide_failed ‹_›).trans (dataSide_drawBytes _ _)
      · exact .of_draws (by simp only [received]; rw [busRead_light])

theorem dataSide_touch (i : BitVec 8) (w : Way) (s : State) : DataSide s (s.setDClass i ((s.dClass i).touch w)) :=
  dataSide_setDClass fun hd => hd

theorem dataSide_hitLoad (x : Xlat) (n : Nat) (w : Way) (s : State) : DataSide s (hitLoad x n w s).2 := dataSide_touch _ _ _

theorem dataSide_hitStore (x : Xlat) (bs : List Byte) (w : Way) (s : State) : DataSide s (hitStore x bs w s) :=
  dataSide_setDClass fun hd => distinct_setLine (fun hv => ⟨hv, rfl⟩) hd

theorem dataSide_loadPart (x : Xlat) (n : Nat) (s : State) : (loadPart x n s).DataSide s := by
  unfold loadPart
  split
  · exact .refl s
  · split
    · split
      · trivial
      · exact dataSide_uncachedLoad _ _ _
    · split
      · exact dataSide_hitLoad x n _ _
      · rename_i hd
        split
        · exact dataSide_uncachedLoad _ _ _
        · refine Res.DataSide.bind (.refl s) (dataSide_dFill hd) fun _ t ht => ?_
          split
          · exact ht.trans (dataSide_hitLoad x n _ _)
          · exact ht.trans (dataSide_drawBytes n _)

theorem dataSide_storePart (x : Xlat) (bs : List Byte) (s : State) : (storePart x bs s).DataSide s := by
  have h0 := dataSide_dropFillBuffer x.ra s
  unfold storePart
  simp only []
  split
  · exact ⟨rfl, fun h => ⟨h.1, Memory.writeBytes_wf h.2.1 _ _, h.2.2⟩, id, fun _ => ⟨rfl, id⟩, fun _ => ⟨rfl, rfl, id⟩⟩
  · split
    · split
      · trivial
      · exact h0.after (dataSide_busWrite _ _ _ _)
    · split
      · split
        · exact (h0.trans (dataSide_hitStore _ _ _ _)).after (dataSide_busWrite _ _ _ _)
        · exact h0.trans (dataSide_hitStore _ _ _ _)
      · rename_i hd
        split
        · exact h0.after (dataSide_busWrite _ _ _ _)
        · refine Res.DataSide.bind h0 (dataSide_dFill hd) fun _ t ht => ?_
          split
          · exact ht.trans (dataSide_hitStore _ _ _ _)
          · exact ht.after (dataSide_busWrite _ _ _ _)

theorem dataSide_loadWithin (whole : Bool) (x : Xlat) (n : Nat) (s : State) : (loadWithin whole x n s).DataSide s := by
  unfold loadWithin
  split
  · exact Res.DataSide.bind (.refl s) (dataSide_loadPart _ _ _) fun _ _ ht => ht
  · exact dataSide_loadPart _ _ _

theorem dataSide_loadParts (whole : Bool) (ps : List Part) (xs : List Xlat) {s u : State} (h : DataSide s u) :
    (loadParts whole ps xs u).DataSide s := by
  induction ps generalizing u xs with
  | nil => simpa [loadParts, Res.DataSide] using h
  | cons p ps ih =>
    cases xs with
    | nil => exact h
    | cons x xs =>
      exact Res.DataSide.bind h (dataSide_loadWithin _ _ _ _) fun _ _ ht =>
        Res.DataSide.bind (.refl s) (ih xs ht) fun _ _ hv => hv

theorem dataSide_storeParts (ps : List Part) (bs : List Byte) (xs : List Xlat) {s u : State} (h : DataSide s u) :
    (storeParts ps bs xs u).DataSide s := by
  induction ps generalizing u xs bs with
  | nil => simpa [storeParts, Res.DataSide] using h
  | cons p ps ih =>
    cases xs with
    | nil => exact h
    | cons x xs => exact Res.DataSide.bind h (dataSide_storePart _ _ _) fun _ _ ht => ih _ xs ht

/-! ### Checks -/

theorem searchTlb_light (s : State) (old : List OldEntry) (ea : Word) :
    (s.searchTlb old ea).2 = { s with draws := (s.searchTlb old ea).2.draws } := by
  unfold State.searchTlb
  split <;> rfl

/-- A search with every context register in force and no earlier entries left is the search of the UTLB for the process in PID
(21_translation.md R224). -/
theorem searchTlb_settled {s : State} (ea : Word) (h : s.stale = []) :
    s.searchTlb [] ea = (searchEntries s.utlb (s.spr.pid.extractLsb' 0 8) ea, s) := by
  have hp : s.pidNow = s.spr.pid.extractLsb' 0 8 := by simp [State.pidNow, State.inForce, h, State.current]
  have ho : s.oldLookups [] ea = [] := by
    simp [State.oldLookups, State.pids, State.searchUtlb, earlierSearches, h, hp]
  simp [State.searchTlb, ho, State.searchUtlb, hp]

/-- A check whose outcomes all leave states that `P` holds of. -/
def Checked.leaves (P : State → Prop) : Checked → Prop
  | .ok _ t => P t
  | .exc _ t => P t
  | .fault _ => True

theorem leaves_usePage {P : State → Prop} (ocm : Bool) (t : TlbEntry) (ea : Word) (p : Option Exc) {u : State} (h : P u) :
    (usePage ocm t ea p u).leaves P := by
  unfold usePage
  split
  · exact h
  · split
    · trivial
    · split
      · trivial
      · exact h

theorem dataSide_dataCheck (k : AccKind) (ea : Word) (s : State) : (dataCheck k ea s).leaves (DataSide s) := by
  have h : DataSide s (s.searchTlb s.dtlbOld ea).2 := .of_draws (by rw [searchTlb_light])
  unfold dataCheck
  split
  · split
    · rename_i e; rw [e] at h; exact h
    · trivial
    · rename_i e; rw [e] at h; exact leaves_usePage _ _ _ _ h
  · split <;> exact .refl s

/-- The states a check of all parts leaves. -/
def Plan.DataSide (s : State) : Plan → Prop
  | .ok _ t => Machine.DataSide s t
  | .exc _ _ t => Machine.DataSide s t
  | .fault _ => True

theorem dataSide_planParts (k : AccKind) (ps : List Part) {s u : State} (h : DataSide s u) :
    (planParts k ps u).DataSide s := by
  induction ps generalizing u with
  | nil => exact h
  | cons p ps ih =>
    have hc := dataSide_dataCheck k p.ea u
    simp only [planParts]
    split
    · rename_i x t e
      rw [e] at hc
      have := ih (h.trans hc)
      cases hp : planParts k ps t <;> rw [hp] at this <;> exact this
    · rename_i e; rw [e] at hc; exact h.trans hc
    · trivial

theorem dvcOne_frame (write two : Bool) (a : Word) (v : Option Word) (s : State) :
    (dvcOne write two a v s).2 = { s with draws := (dvcOne write two a v s).2.draws
                                          dvcBits := (dvcOne write two a v s).2.dvcBits } ∧
      (s.noDebug → (dvcOne write two a v s).2.dvcBits = s.dvcBits) := by
  unfold dvcOne
  split
  · rename_i h
    refine ⟨?_, fun hn => ?_⟩
    · split
      · split <;> rfl
      · simp only []; split <;> rfl
    · simp [dacMatch, hn.now1, bit] at h
  · exact ⟨rfl, fun _ => rfl⟩

theorem DataSide.of_dvc {s t : State} (h : t = { s with draws := t.draws, dvcBits := t.dvcBits })
    (hn : s.noDebug → t.dvcBits = s.dvcBits) : DataSide s t where
  frame := by rw [h]
  wf := by rw [h]; exact id
  distinct := by rw [h]; exact id
  bus _ := by rw [h]; exact ⟨rfl, id⟩
  calm hd := ⟨by rw [h], by rw [h], fun hz => (hn hd).trans hz⟩

theorem dataSide_dvcCheck (write : Bool) (a : Word) (v : Option Word) (s : State) : DataSide s (dvcCheck write a v s).2 := by
  have h1 := dvcOne_frame write false a v s
  have h2 := dvcOne_frame write true a v (dvcOne write false a v s).2
  exact (DataSide.of_dvc h1.1 h1.2).trans (DataSide.of_dvc h2.1 h2.2)

theorem dataSide_dvcParts (write : Bool) (o : Operand) (es : List Bool) (ps : List Part) (bss : List (List Byte)) {s u : State}
    (h : DataSide s u) : DataSide s (dvcParts write o es ps bss u) := by
  induction es generalizing u ps bss with
  | nil => simpa [dvcParts] using h
  | cons e es ih =>
    cases ps with
    | nil => simpa [dvcParts] using h
    | cons p ps =>
      cases bss with
      | nil => simpa [dvcParts] using h
      | cons bs bss => exact ih ps bss (h.trans (dataSide_dvcCheck _ _ _ _))

theorem dataSide_partsBeforeStop (write : Bool) (ps : List Part) {s u : State} (h : DataSide s u) :
    DataSide s (partsBeforeStop write ps u).2 := by
  induction ps generalizing u with
  | nil => exact h
  | cons p ps ih =>
    cases ps with
    | nil => exact h
    | cons q ps =>
      have h1 := h.trans (dataSide_dvcCheck write p.dac none u)
      simp only [partsBeforeStop]
      split
      · exact h1
      · exact ih h1

theorem dataSide_accessed (write : Bool) (o : Operand) (s : State) : DataSide s (o.accessed write s).2 := by
  unfold Operand.accessed
  split
  · exact dataSide_partsBeforeStop _ _ (.refl s)
  · exact .refl s

theorem dataSide_dvcAfter (write : Bool) (o : Operand) (es : List Bool) (bss : List (List Byte)) (s : State) :
    DataSide s (dvcAfter write o es bss s) := by
  unfold dvcAfter
  split
  · split
    · exact dataSide_dvcCheck _ _ _ _
    · exact .refl s
  · exact dataSide_dvcParts _ _ _ _ _ (.refl s)

/-! ### Debug events and interrupts inside an instruction -/

/-- What an operation that ends the instruction may have done before: as `DataSide`, and general registers. -/
def Partly (s t : State) : Prop := ∃ u, DataSide s u ∧ t = { u with gpr := t.gpr }

theorem DataSide.partly {s t : State} (h : DataSide s t) : Partly s t := ⟨t, h, rfl⟩

theorem Partly.pc {s t : State} (h : Partly s t) : t.pc = s.pc := by
  obtain ⟨u, hu, e⟩ := h
  rw [e]; exact hu.pc

/-- General registers written, and free values drawn, besides. -/
theorem Partly.regs {s u t : State} (h : Partly s u) (e : t = { u with gpr := t.gpr, draws := t.draws }) : Partly s t := by
  obtain ⟨v, hv, hu⟩ := h
  refine ⟨{ v with draws := t.draws }, hv.trans (.of_draws rfl), ?_⟩
  rw [e, hu]

/-- A data machine check is no longer waiting. -/
theorem Partly.acted {s t : State} (h : Partly s t) : Partly s { t with dataMC := false, mcDue := false } := by
  obtain ⟨u, hu, e⟩ := h
  refine ⟨{ u with dataMC := false, mcDue := false }, hu.trans (.of_light rfl (fun h => by cases h)), ?_⟩
  rw [e]

/-- How an operation ends the instruction: by an interrupt taken at the instruction, or by a debug event that stops or interrupts
the processor. -/
def Ended (s t : State) : Prop :=
  ∃ u, Partly s u ∧ ((∃ e, t = takeInterrupt e u.pc u) ∨ ∃ de ide ev ret, debugEventWith de ide ev ret u = .halted t)

theorem Ended.of_dataSide {s u t : State} (h : DataSide s u) (h' : Ended u t) : Ended s t := by
  obtain ⟨v, ⟨w, hw, e⟩, hx⟩ := h'
  exact ⟨v, ⟨w, h.trans hw, e⟩, hx⟩

/-- The result of an operation that may end the instruction. -/
def Res.Effect {α : Type} (s : State) : Res α → Prop
  | .ok _ t => Machine.DataSide s t
  | .stop t => Ended s t
  | .fault _ => True

/-- The result of an operation of an instruction that will not complete. -/
def Res.Partly {α : Type} (s : State) : Res α → Prop
  | .ok _ t => Machine.Partly s t
  | .stop _ => False
  | .fault _ => True

theorem Res.DataSide.effect {α : Type} {s : State} {r : Res α} (h : r.DataSide s) : r.Effect s := by
  cases r with
  | ok a t => exact h
  | stop t => exact h.elim
  | fault f => trivial

theorem Res.DataSide.partly {α : Type} {s : State} {r : Res α} (h : r.DataSide s) : r.Partly s := by
  cases r with
  | ok a t => exact Machine.DataSide.partly h
  | stop t => exact h.elim
  | fault f => trivial

theorem Res.Effect.bind {α β : Type} {s u : State} {r : Res α} {k : α → State → Res β} (hu : Machine.DataSide s u)
    (h : r.Effect u) (hk : ∀ a t, Machine.DataSide s t → (k a t).Effect s) : (r.bind k).Effect s := by
  cases r with
  | ok a t => exact hk a t (hu.trans h)
  | stop t => exact Ended.of_dataSide hu h
  | fault f => trivial

theorem Res.Partly.bind {α β : Type} {s : State} {r : Res α} {k : α → State → Res β}
    (h : r.Partly s) (hk : ∀ a t, Machine.Partly s t → (k a t).Effect s) : (r.bind k).Effect s := by
  cases r with
  | ok a t => exact hk a t h
  | stop t => exact h.elim
  | fault f => trivial

/-- What a debug event leaves where execution goes on, and when that is. -/
theorem debugEventWith_goOn {de ide : Bool} {ev ret : Word} {s t : State} (h : debugEventWith de ide ev ret s = .goOn t) :
    t = recordDebug (ide && !de) ev s ∧ s.edm = false ∧ (s.idm = true → de = false) ∧ (s.idm = false → s.dwe = false) := by
  unfold debugEventWith at h
  cases h0 : s.edm <;> cases h1 : s.idm <;> cases h2 : s.dwe <;> cases de <;> simp_all

theorem dataSide_recordDebug {ide : Bool} {ev : Word} {s : State} (h : ¬ s.noDebug) : DataSide s (recordDebug ide ev s) :=
  ⟨rfl, id, id, fun _ => ⟨rfl, id⟩, fun c => absurd c h⟩

/-- A debug event before the effect of an instruction. -/
theorem effect_debugEventWith {de ide : Bool} {ev ret : Word} {s : State} (h : ¬ s.noDebug) :
    (debugEventWith de ide ev ret s).toRes.Effect s := by
  cases he : debugEventWith de ide ev ret s with
  | halted t => exact ⟨s, (DataSide.refl s).partly, .inr ⟨de, ide, ev, ret, he⟩⟩
  | goOn t =>
    rw [(debugEventWith_goOn he).1]
    exact dataSide_recordDebug h

/-- With the data compares off no address has a DAC event. -/
theorem dacEvents_off {d : DebugRegs} (h : d.dbcr1 = 0#32) (write : Bool) (as : List Word) :
    (as.map (dacBits write d)).foldl (· ||| ·) 0#32 = 0#32 := by
  induction as with
  | nil => rfl
  | cons a as ih => simpa [dacBits, dacMatch, h, bit] using ih

theorem effect_dacCheck (write : Bool) (as : List Word) (s : State) : (dacCheck write as s).Effect s := by
  unfold dacCheck
  simp only []
  split
  · exact .refl s
  · rename_i hev
    exact effect_debugEventWith fun hn => hev (dacEvents_off hn.now1 write as)

theorem effect_raise {α : Type} {e : Exc} {s u : State} (h : Partly s u) : (raise e u : Res α).Effect s := ⟨u, h, .inl ⟨e, rfl⟩⟩

/-! ### Whole accesses -/

theorem effect_beginAccess (k : AccKind) (ps : List Part) (mis : Option Word) (partly : List Xlat → State → Res Unit) (s : State)
    (hp : ∀ xs u, DataSide s u → (partly xs u).Partly s) : (beginAccess k ps mis partly s).Effect s := by
  have hc := dataSide_planParts k ps (DataSide.of_light (s := s) (t := { s with synced := false }) rfl id)
  unfold beginAccess
  simp only []
  split
  · trivial
  · rename_i e; rw [e] at hc; exact effect_raise (DataSide.partly hc)
  · rename_i x xs e t heq
    rw [heq] at hc
    exact Res.Partly.bind (hp _ _ (DataSide.trans hc (.of_draws rfl))) fun _ _ hu => effect_raise hu
  · rename_i e
    rw [e] at hc
    split
    · exact effect_raise (DataSide.partly hc)
    · exact Res.Effect.bind hc (effect_dacCheck _ _ _) fun _ _ hu => hu

/-- An access that a data machine check may abandon. -/
theorem effect_interruptible {α : Type} {o : Operand} {partly : List Xlat → State → Res Unit} {whole : State → Res α}
    {s u : State} (xs : List Xlat) (hu : DataSide s u) (hp : ∀ ys v, DataSide s v → (partly ys v).Partly s)
    (hw : ∀ v, DataSide s v → (whole v).DataSide s) : (interruptible o partly whole xs u).Effect s := by
  have h1 : DataSide s (drawBelow (xs.length + 2) u).2 := hu.trans (.of_draws rfl)
  unfold interruptible
  refine Res.Effect.bind (.refl s) (hw u hu).effect fun a t ht => ?_
  split
  · simp only []
    split
    · refine Res.Partly.bind (hp _ _ h1) fun _ v hv => ?_
      split
      · exact effect_raise (Partly.acted hv)
      · exact (hw _ h1).effect
    · exact (hw _ h1).effect
  · exact ht

theorem dataSide_loadWhole (o : Operand) (xs : List Xlat) {s u : State} (h : DataSide s u) :
    (o.loadWhole xs u).DataSide s := by
  unfold Operand.loadWhole
  refine Res.DataSide.bind (.refl s) (dataSide_loadParts _ _ _ (h.trans (dataSide_accessed false o u))) fun bss t ht => ?_
  split
  · exact ht.trans (dataSide_drawBytes _ _)
  · exact ht.trans (dataSide_dvcAfter _ _ _ _ _)

theorem dataSide_storeWhole (o : Operand) (vs : List (List Byte)) (xs : List Xlat) {s u : State} (h : DataSide s u) :
    (o.storeWhole vs xs u).DataSide s := by
  unfold Operand.storeWhole
  refine Res.DataSide.bind (.refl s) (dataSide_storeParts _ _ _ (h.trans (dataSide_accessed true o u))) fun _ t ht => ?_
  split
  · exact ht
  · exact ht.trans (dataSide_dvcAfter _ _ _ _ _)

/-- A load: where it completes, only the data side has changed; else the instruction has ended, with general registers written by
`put` alone. -/
theorem effect_loadOperand (o : Operand) (mis : Option Word) (put : Loaded → State → State) (s : State)
    (hput : ∀ l u, put l u = { u with gpr := (put l u).gpr, draws := (put l u).draws }) :
    (loadOperand o mis put s).Effect s := by
  have hp : ∀ xs u, DataSide s u → (o.loadPrefix put xs u).Partly s := by
    intro xs u hu
    have h := dataSide_loadParts (!o.single) o.parts xs hu
    unfold Operand.loadPrefix
    cases hl : loadParts (!o.single) o.parts xs u with
    | ok rs t => rw [hl] at h; exact (DataSide.partly h).regs (hput _ _)
    | stop t => rw [hl] at h; exact h.elim
    | fault f => trivial
  unfold loadOperand
  exact Res.Effect.bind (.refl s) (effect_beginAccess _ _ _ _ s hp) fun xs t ht =>
    effect_interruptible xs ht hp fun v hv => dataSide_loadWhole o xs hv

/-- A store, likewise; it writes no general register. -/
theorem effect_storeOperand (o : Operand) (mis : Option Word) (vs : List (List Byte)) (s : State) :
    (storeOperand o mis vs s).Effect s := by
  have hp : ∀ xs u, DataSide s u → (o.storePrefix mis vs xs u).Partly s := by
    intro xs u hu
    unfold Operand.storePrefix
    split
    · exact (dataSide_storeParts _ _ _ hu).partly
    · exact hu.partly
  unfold storeOperand
  exact Res.Effect.bind (.refl s) (effect_beginAccess _ _ _ _ s hp) fun xs t ht =>
    effect_interruptible xs ht hp fun v hv => dataSide_storeWhole o vs xs hv

/-- A partly performed scalar load writes at most a register. -/
theorem putScalar_frame (rD : Reg) (l : Loaded) (s : State) :
    putScalar rD l s = { s with gpr := (putScalar rD l s).gpr, draws := (putScalar rD l s).draws } := by
  unfold putScalar
  split <;> rfl

/-- The free words of a load are drawn, and nothing else changes. -/
theorem freeFailed_light (failed : List Nat) (k : Nat) (ws : List Word) (s : State) :
    (freeFailed failed k ws s).2 = { s with draws := (freeFailed failed k ws s).2.draws } := by
  induction ws generalizing k s with
  | nil => rfl
  | cons w ws ih =>
    simp only [freeFailed]
    split
    · rw [ih]; rfl
    · exact ih _ _

/-- Without a bus error every word is as it was loaded. -/
@[simp] theorem freeFailed_nil (k : Nat) (ws : List Word) (s : State) : freeFailed [] k ws s = (ws, s) := by
  induction ws generalizing k with
  | nil => rfl
  | cons w ws ih => simp [freeFailed, ih]

/-- A scalar load: where it completes, only the data side has changed; else the instruction has ended. -/
theorem effect_loadScalar (rD : Reg) (ea : Word) (n : Nat) (mis : Option Word) (f : Word → Word) (s : State) :
    (loadScalar rD ea n mis f s).Effect s :=
  Res.Effect.bind (.refl s) (effect_loadOperand _ _ _ s (putScalar_frame rD)) fun l t h => by
    simp only []
    split
    · exact h
    · exact h.trans (.of_draws rfl)

/-- A scalar store, likewise. -/
theorem effect_storeScalar (ea : Word) (n : Nat) (mis : Option Word) (v : Word) (s : State) :
    (storeScalar ea n mis v s).Effect s := effect_storeOperand _ _ _ _

/-! ### Cache instructions -/

/-- The access of a cache instruction. -/
theorem effect_cacheAccess (k : AccKind) (ea : Word) (s : State) : (cacheAccess k ea s).Effect s := by
  have h0 : DataSide s { s with synced := false } := .of_light rfl id
  have h := dataSide_dataCheck k ea { s with synced := false }
  unfold cacheAccess
  split
  · rename_i e; rw [e] at h; exact h0.trans h
  · rename_i e; rw [e] at h; exact effect_raise (DataSide.partly (h0.trans h))
  · trivial

theorem effect_cacheAccessDac (k : AccKind) (write : Bool) (ea : Word) (s : State) : (cacheAccessDac k write ea s).Effect s :=
  Res.Effect.bind (.refl s) (effect_cacheAccess k ea s) fun _ _ ht =>
    Res.Effect.bind ht (effect_dacCheck _ _ _) fun _ _ hu => hu

/-- The end of a cache instruction: the next instruction, or a data machine check. -/
theorem finish_cases (s t : State) :
    finish s t = done t ∨ finish s t = done (drawBool t).2 ∨
      finish s t = trapTo .machineCheckData { (drawBool t).2 with dataMC := false, mcDue := false } := by
  unfold finish
  simp only []
  split
  · split
    · exact .inr (.inr rfl)
    · exact .inr (.inl rfl)
  · exact .inl rfl

end Sys2Proof.Machine
end

