-- ==== Sys2Proof/Laws/Access.lean ====
section
/-! SUPPORT. Laws/Access.lean: what a load and a store of Machine/Access.lean do in a calm state to plain storage
(`State.calmData`, `State.plain`): no check stops them, a load reads memory, a store writes memory, and only the data fill
buffer or the older words of memory differ besides. -/

namespace Sys2Proof.Machine

/-! ### Context and checks -/

/-- With no change outstanding, every context register is in force as it stands. -/
theorem inForce_settled {s : State} (h : s.stale = []) (r : CtxReg) : s.inForce r = s.current r := by
  simp [State.inForce, h]

/-- Everything a return does (60_exceptions.md R763, 61_timers_debug.md R874): the context is synchronized, so that DBCR0 is in force as
it reads. -/
theorem returnTo_eq (target msr : Word) (s : State) :
    returnTo target msr s =
      let t : State := { s with
        msr := msr, pc := wordAlign target, stale := [], itlbOld := [], dtlbOld := [], oldCode := [], oldLines := []
        busFetch := false, ccr0Open := false }
      if s.dwLatched && bit msr 21 && !bit s.dbg.dbcr0 1 && !bit s.dbg.dbcr0 0 then { t with run := .debugWait, dwLatched := false }
      else t := rfl

/-- The translation of an address in real mode. -/
def realXlat (s : State) (ea : Word) : Xlat := placed (ocmHolds s.env.dataOcm ea) ea ea (s.realDataAttr ea)

/-- In a calm state the data compares are off as they are in force. -/
theorem calm_dbcr1 {s : State} (h : s.calmData) : s.debugNow.dbcr1 = 0#32 := by
  simp [State.debugNow, inForce_settled h.settled, State.current, h.dbcr1]

/-- A state stays calm when an access begins. -/
theorem calm_unsynced {s : State} (h : s.calmData) : ({ s with synced := false } : State).calmData :=
  ⟨h.settled, h.real, h.u0, h.dbcr1, h.dfb, h.quiet⟩

/-- In a calm state no data access is stopped by translation or protection. -/
theorem dataCheck_calm {s : State} (h : s.calmData) (k : AccKind) (ea : Word) :
    dataCheck k ea s = .ok (realXlat s ea) s := by
  have h1 : s.dr = false := by simp [State.dr, inForce_settled h.settled, State.current, h.real]
  have h2 : s.u0xe = false := by simp [State.u0xe, inForce_settled h.settled, State.current, h.u0]
  simp [dataCheck, h1, h2, realXlat]

theorem planParts_calm {s : State} (h : s.calmData) (k : AccKind) (ps : List Part) :
    planParts k ps s = .ok (ps.map fun p => realXlat s p.ea) s := by
  induction ps with
  | nil => rfl
  | cons p ps ih => simp [planParts, dataCheck_calm h, ih, Plan.cons]

theorem dacCheck_off {s : State} (h : s.debugNow.dbcr1 = 0#32) (write : Bool) (as : List Word) :
    dacCheck write as s = .ok () s := by
  simp only [dacCheck, dacEvents_off h, if_true]

theorem dvcCheck_off {s : State} (h : s.debugNow.dbcr1 = 0#32) (write : Bool) (a : Word) (v : Option Word) :
    dvcCheck write a v s = (false, s) := by
  simp [dvcCheck, dvcOne, dacMatch, h, bit]

theorem dvcParts_off {s : State} (h : s.debugNow.dbcr1 = 0#32) (write : Bool) (o : Operand) (es : List Bool) (ps : List Part)
    (bss : List (List Byte)) : dvcParts write o es ps bss s = s := by
  induction es generalizing ps bss with
  | nil => simp [dvcParts]
  | cons e es ih =>
    cases ps <;> cases bss <;> simp [dvcParts, dvcCheck_off h, ih]

theorem partsBeforeStop_off {s : State} (h : s.debugNow.dbcr1 = 0#32) (write : Bool) (ps : List Part) :
    partsBeforeStop write ps s = (ps.length, s) := by
  induction ps with
  | nil => rfl
  | cons p ps ih =>
    cases ps with
    | nil => rfl
    | cons q ps => simp [partsBeforeStop, dvcCheck_off h, ih]

/-- With the data compares off every part is accessed. -/
theorem accessed_off {s : State} (h : s.debugNow.dbcr1 = 0#32) (write : Bool) (o : Operand) :
    o.accessed write s = (o.parts.length, s) := by
  unfold Operand.accessed
  split
  · exact partsBeforeStop_off h _ _
  · rfl

theorem dvcAfter_off {s : State} (h : s.debugNow.dbcr1 = 0#32) (write : Bool) (o : Operand) (es : List Bool)
    (bss : List (List Byte)) : dvcAfter write o es bss s = s := by
  unfold dvcAfter
  split
  · split
    · simp [dvcCheck_off h]
    · rfl
  · exact dvcParts_off h _ _ _ _ _

/-- In a calm state the checks of a whole access pass, unless its address is misaligned for an instruction that minds. -/
theorem beginAccess_calm {s : State} (h : s.calmData) (k : AccKind) (ps : List Part) (partly : List Xlat → State → Res Unit) :
    beginAccess k ps none partly s = .ok (ps.map fun p => realXlat s p.ea) { s with synced := false } := by
  have h' := calm_unsynced h
  simp [beginAccess, planParts_calm h', dacCheck_off (calm_dbcr1 h'), Res.bind]
  exact fun _ _ => rfl

theorem beginAccess_misaligned {s : State} (h : s.calmData) (k : AccKind) (ps : List Part) (ea : Word)
    (partly : List Xlat → State → Res Unit) :
    beginAccess k ps (some ea) partly s = raise (.alignment ea) { s with synced := false } := by
  simp [beginAccess, planParts_calm (calm_unsynced h)]

/-- An access that leaves no data bus error waiting is not abandoned. -/
theorem interruptible_quiet {α : Type} {o : Operand} {partly : List Xlat → State → Res Unit} {whole : State → Res α}
    {xs : List Xlat} {s t : State} {a : α} (h : whole s = .ok a t) (hq : t.dataMC = false) :
    interruptible o partly whole xs s = .ok a t := by
  simp [interruptible, h, Res.bind, hq]

/-! ### The bytes of a line -/

theorem lineOfBytes_append (bs : List Byte) (b : Byte) :
    lineOfBytes (bs ++ [b]) = (lineOfBytes bs <<< 8) ||| b.setWidth 256 := by
  simp [lineOfBytes]

/-- Byte `k` from the end of a line made of bytes. -/
theorem lineOfBytes_extract (bs : List Byte) (k : Nat) (hk : k < bs.length) (h : bs.length ≤ 32) :
    (lineOfBytes bs).extractLsb' (8 * k) 8 = bs[bs.length - 1 - k]'(by omega) := by
  induction bs using List.reverseRecOn generalizing k with
  | nil => simp at hk
  | append_singleton bs b ih =>
    rw [lineOfBytes_append]
    simp only [List.length_append, List.length_singleton] at hk h ⊢
    cases k with
    | zero =>
      simp only [Nat.mul_zero, Nat.sub_zero, Nat.add_sub_cancel]
      rw [List.getElem_append_right (by omega)]
      simp only [Nat.sub_self, List.getElem_singleton]
      ext i hi
      simp [hi, show i < 256 by omega]
    | succ k =>
      rw [List.getElem_append_left (by omega)]
      have := ih k (by omega) (by omega)
      have hidx : bs[bs.length + 1 - 1 - (k + 1)]'(by omega) = bs[bs.length - 1 - k]'(by omega) := by
        congr 1
        omega
      rw [hidx, ← this]
      ext i hi
      simp only [BitVec.getElem_extractLsb', BitVec.getLsbD_or, BitVec.getLsbD_shiftLeft, BitVec.getLsbD_setWidth]
      have h1 : b.getLsbD (8 * (k + 1) + i) = false := BitVec.getLsbD_of_ge _ _ (by omega)
      have h2 : ¬ 8 * (k + 1) + i < 8 := by omega
      have h3 : 8 * (k + 1) + i < 256 := by omega
      have h4 : 8 * (k + 1) + i - 8 = 8 * k + i := by omega
      simp [h1, h2, h3, h4]

theorem getElem_readBytes (m : Memory) (a : Word) (n k : Nat) (h : k < (m.readBytes a n).length) :
    (m.readBytes a n)[k] = m.read (a + BitVec.ofNat 32 k) := by
  induction n generalizing a k with
  | zero => simp [Memory.readBytes] at h
  | succ n ih =>
    cases k with
    | zero => simp [Memory.readBytes]
    | succ k =>
      simp only [Memory.readBytes, List.getElem_cons_succ]
      rw [ih]
      congr 1
      rw [BitVec.add_assoc]
      congr 1
      rw [show (1#32 : Word) = BitVec.ofNat 32 1 from rfl, ← BitVec.ofNat_add]
      congr 1
      omega

/-- An address is its line's address and its offset in the line. -/
theorem lineAlign_add_offset (a : Word) : lineAlign a + BitVec.ofNat 32 (lineOffset a) = a := by
  have h1 : lineAlign a = a &&& ~~~31#32 := rfl
  have h2 : BitVec.ofNat 32 (lineOffset a) = a &&& 31#32 := by
    apply BitVec.eq_of_toNat_eq
    have : (31#32 : Word).toNat = 2 ^ 5 - 1 := rfl
    rw [BitVec.toNat_and, this, Nat.and_two_pow_sub_one_eq_mod]
    simp [lineOffset, BitVec.extractLsb'_toNat]
    omega
  rw [h1, h2]
  have hz : a &&& ~~~31#32 &&& (a &&& 31#32) = 0#32 := by
    ext i hi
    simp only [BitVec.getElem_and, BitVec.getElem_not, BitVec.getElem_zero]
    cases a[i] <;> cases (31#32)[i] <;> rfl
  rw [BitVec.add_eq_or_of_and_eq_zero _ _ hz]
  ext i hi
  simp only [BitVec.getElem_or, BitVec.getElem_and, BitVec.getElem_not]
  cases a[i] <;> cases (31#32)[i] <;> rfl

/-- A byte of a line filled from memory is the byte of memory. -/
theorem lineByte_readLine (m : Memory) (a : Word) : lineByte (m.readLine a) (lineOffset a) = m.read a := by
  have ho : lineOffset a < 32 := by unfold lineOffset; exact BitVec.isLt _
  have hl : (m.readBytes (lineAlign a) 32).length = 32 := by simp
  unfold lineByte Memory.readLine
  rw [show 248 - 8 * lineOffset a = 8 * (31 - lineOffset a) by omega, lineOfBytes_extract _ _ (by omega) (by omega)]
  rw [getElem_readBytes]
  rw [hl, show 32 - 1 - (31 - lineOffset a) = lineOffset a by omega, lineAlign_add_offset]

/-! ### Loads -/

/-- The fill buffer, if it keeps a block, keeps it as memory has it. -/
def State.bufferTrue (s : State) : Prop :=
  ∀ f, s.dfb = some f → ∀ a, blockOf a = f.block → lineByte f.data (lineOffset a) = s.mem.read a

/-- What a load from plain storage may change: the fill buffer. -/
def State.refilled (s t : State) : Prop := t = { s with dfb := t.dfb } ∧ t.bufferTrue

theorem lineOffset_eq (a : Word) : lineOffset a = a.toNat % 32 := by
  simp [lineOffset, BitVec.extractLsb'_toNat]

/-- A block begins at a multiple of 32. -/
theorem toNat_lineAlign (a : Word) : (lineAlign a).toNat = a.toNat / 32 * 32 := by
  have h : lineAlign a = (a >>> 5) <<< 5 := by
    ext i hi
    have : (0xFFFFFFE0#32)[i] = decide (5 ≤ i) := by revert hi; revert i; decide
    simp only [lineAlign, BitVec.getElem_and, this, BitVec.getElem_shiftLeft, BitVec.getElem_ushiftRight]
    by_cases h2 : 5 ≤ i
    · simp [h2, show ¬ i < 5 by omega, ← BitVec.getLsbD_eq_getElem]
    · simp [h2, show i < 5 by omega]
  rw [h]
  have := a.isLt
  simp only [BitVec.toNat_shiftLeft, BitVec.toNat_ushiftRight, Nat.shiftLeft_eq, Nat.shiftRight_eq_div_pow]
  omega

/-- The 32 bytes from the beginning of a block on are those of the block. -/
theorem blockOf_lineAlign_add (a : Word) {k : Nat} (hk : k < 32) : blockOf (lineAlign a + BitVec.ofNat 32 k) = blockOf a := by
  have := a.isLt
  have := toNat_lineAlign a
  simp only [blockOf, BitVec.toNat_add, BitVec.toNat_ofNat]
  omega

theorem readLine_congr (m : Memory) {a b : Word} (h : blockOf a = blockOf b) : m.readLine a = m.readLine b := by
  have : lineAlign a = lineAlign b := by
    apply BitVec.eq_of_toNat_eq
    rw [toNat_lineAlign, toNat_lineAlign]
    unfold blockOf at h
    rw [h]
  simp [Memory.readLine, this]

/-- The bytes of a piece that lies in one line, read from the line or from memory. -/
theorem lineBytes_eq_readBytes (m : Memory) (d : BitVec 256) (a : Word) (n : Nat) (hn : a.toNat % 32 + n ≤ 32)
    (h : ∀ b, blockOf b = blockOf a → lineByte d (lineOffset b) = m.read b) :
    lineBytes d (lineOffset a) n = m.readBytes a n := by
  apply List.ext_getElem
  · simp [lineBytes]
  · intro k h1 h2
    have hk : k < n := by simpa [lineBytes] using h1
    have ha := a.isLt
    have hb : (a + BitVec.ofNat 32 k).toNat = a.toNat + k := by
      simp only [BitVec.toNat_add, BitVec.toNat_ofNat]
      omega
    rw [getElem_readBytes]
    rw [← h (a + BitVec.ofNat 32 k) (by unfold blockOf; rw [hb]; omega)]
    simp only [lineBytes, List.getElem_map, List.getElem_range, lineOffset_eq, hb]
    congr 1
    omega

/-- Memory read over the bus. -/
theorem busRead_ram {s : State} {a : Word} {n : Nat} (h : ∀ k, k < n → s.memKind (a + BitVec.ofNat 32 k) = .ram) :
    busRead a n s = (s.mem.readBytes a n, s) := by
  induction n generalizing a with
  | zero => rfl
  | succ n ih =>
    have h0 : s.memKind a = .ram := by simpa using h 0 (by omega)
    have h1 : ∀ k, k < n → s.memKind (a + 1#32 + BitVec.ofNat 32 k) = .ram := fun k hk => by
      have := h (1 + k) (by omega)
      rwa [BitVec.ofNat_add, ← BitVec.add_assoc] at this
    simp only [busRead, busByte, State.isMemory, h0, beq_self_eq_true, Bool.true_or, if_true, ih h1, Memory.readBytes]

/-- A block of memory read over the bus. -/
theorem busReadLine_ram {s : State} {a : Word} (h : ∀ b, blockOf b = blockOf a → s.memKind b = .ram) :
    busReadLine a s = (s.mem.readLine a, s) := by
  simp only [busReadLine, busRead_ram fun k hk => h _ (blockOf_lineAlign_add a hk), Memory.readLine]

/-- The bytes that the fill buffer has of plain storage are those of memory; else they come from memory. -/
theorem uncachedLoad_ram {s : State} {x : Xlat} {n : Nat} (hk : ∀ k, k < n → s.memKind (x.ra + BitVec.ofNat 32 k) = .ram)
    (hw : s.lwl = true → ∀ a, blockOf a = blockOf x.ra → s.memKind a = .ram) (hf : s.bufferTrue)
    (hn : x.ra.toNat % 32 + n ≤ 32) :
    (uncachedLoad x n s).1 = goodBytes (s.mem.readBytes x.ra n) ∧ s.refilled (uncachedLoad x n s).2 := by
  have hb : s.busError x.ra n = false := anyKind_false (by decide) hk
  have hl : ∀ b, blockOf b = blockOf x.ra → lineByte (s.mem.readLine x.ra) (lineOffset b) = s.mem.read b := fun b hb => by
    rw [readLine_congr s.mem hb.symm, lineByte_readLine]
  cases hdf : s.dfb.filter (fun f => f.block == blockOf x.ra) with
  | some g =>
    obtain ⟨hg, hg2⟩ := Option.filter_eq_some_iff.mp hdf
    have hg2 : g.block = blockOf x.ra := by simpa using hg2
    simp only [uncachedLoad, hdf, received]
    exact ⟨congrArg goodBytes (lineBytes_eq_readBytes s.mem g.data x.ra n hn fun b hb => hf g hg b (by rw [hb, hg2])), rfl, hf⟩
  | none =>
    simp only [uncachedLoad, hdf, hb, Bool.false_eq_true, if_false]
    split
    · rename_i hlw
      have hw' := hw (by revert hlw; cases s.lwl <;> simp)
      have hle : s.lineError x.ra = false := anyKind_false (by decide) fun k hk => hw' _ (blockOf_lineAlign_add x.ra hk)
      simp only [hle, Bool.false_eq_true, if_false, received, busReadLine_ram hw']
      exact ⟨congrArg goodBytes (lineBytes_eq_readBytes s.mem _ x.ra n hn hl), rfl, fun f hf b hbf => by cases hf; exact hl b hbf⟩
    · rw [busRead_ram (s := { s with dfb := none }) hk]
      exact ⟨rfl, rfl, fun f hf => by cases hf⟩

/-- A load of a piece of plain storage. -/
theorem loadPart_plain {s : State} {x : Xlat} {n : Nat} (ho : x.ocm = false) (hi : x.attr.i = true) (hd : s.dHit x.ra = none)
    (hk : ∀ k, k < n → s.memKind (x.ra + BitVec.ofNat 32 k) = .ram)
    (hw : s.lwl = true → ∀ a, blockOf a = blockOf x.ra → s.memKind a = .ram) (hf : s.bufferTrue)
    (hn : x.ra.toNat % 32 + n ≤ 32) :
    ∃ t, loadPart x n s = .ok (goodBytes (s.mem.readBytes x.ra n)) t ∧ s.refilled t := by
  obtain ⟨h1, h2⟩ := uncachedLoad_ram hk hw hf hn
  refine ⟨_, ?_, h2⟩
  simp only [loadPart, ho, hi, hd, Bool.false_eq_true, if_false, if_true, Option.isSome_none, h1]

/-- A word begins at a multiple of 4. -/
theorem toNat_wordAlign (a : Word) : (wordAlign a).toNat = a.toNat / 4 * 4 := by
  have h : wordAlign a = (a >>> 2) <<< 2 := by
    ext i hi
    have : (0xFFFFFFFC#32)[i] = decide (2 ≤ i) := by revert hi; revert i; decide
    simp only [wordAlign, BitVec.getElem_and, this, BitVec.getElem_shiftLeft, BitVec.getElem_ushiftRight]
    by_cases h2 : 2 ≤ i
    · simp [h2, show ¬ i < 2 by omega, ← BitVec.getLsbD_eq_getElem]
    · simp [h2, show i < 2 by omega]
  rw [h]
  have := a.isLt
  simp only [BitVec.toNat_shiftLeft, BitVec.toNat_ushiftRight, Nat.shiftLeft_eq, Nat.shiftRight_eq_div_pow]
  omega

/-- An address is that of its word and its offset in it. -/
theorem wordAlign_add_offset (a : Word) : wordAlign a + BitVec.ofNat 32 (a.toNat % 4) = a := by
  apply BitVec.eq_of_toNat_eq
  have := a.isLt
  have := toNat_wordAlign a
  simp only [BitVec.toNat_add, BitVec.toNat_ofNat]
  omega

/-- A word lies in one block. -/
theorem blockOf_wordAlign (a : Word) : blockOf (wordAlign a) = blockOf a := by
  have := toNat_wordAlign a
  simp only [blockOf]
  omega

/-- Addresses of one block hit the same line of the data cache. -/
theorem dHit_congr (s : State) {a b : Word} (h : blockOf a = blockOf b) : s.dHit a = s.dHit b := by
  have hi : classIndex a = classIndex b := by
    apply BitVec.eq_of_toNat_eq
    simp only [blockOf] at h
    simp only [classIndex, BitVec.extractLsb'_toNat, Nat.shiftRight_eq_div_pow, Nat.reducePow, h]
  have ht : dTag a = dTag b := by
    apply BitVec.eq_of_toNat_eq
    simp only [blockOf] at h
    simp only [dTag, BitVec.extractLsb'_toNat, Nat.shiftRight_eq_div_pow, Nat.reducePow]
    omega
  simp only [State.dHit, hi, ht]

/-- The bytes of a part are in their places in the bytes of its word. -/
theorem readBytes_within (m : Memory) (a : Word) {n : Nat} (hn : a.toNat % 4 + n ≤ 4) :
    ((m.readBytes (wordAlign a) 4).drop (a.toNat % 4)).take n = m.readBytes a n := by
  have h1 := Memory.readBytes_append m (wordAlign a) (a.toNat % 4) (4 - a.toNat % 4)
  have h2 := Memory.readBytes_append m a n (4 - a.toNat % 4 - n)
  rw [wordAlign_add_offset, show a.toNat % 4 + (4 - a.toNat % 4) = 4 by omega] at h1
  rw [show n + (4 - a.toNat % 4 - n) = 4 - a.toNat % 4 by omega] at h2
  rw [h1, List.drop_left' (by simp), h2, List.take_left' (by simp)]

/-- The same for a part that may be read with its whole word. -/
theorem loadWithin_plain {s : State} {whole : Bool} {x : Xlat} {n : Nat} (ho : x.ocm = false) (hi : x.attr.i = true)
    (hd : s.dHit x.ra = none) (hk : ∀ k, k < n → s.memKind (x.ra + BitVec.ofNat 32 k) = .ram)
    (hr : whole = true → ∀ a, wordOf a = wordOf x.ra → s.memKind a = .ram)
    (hw : s.lwl = true → ∀ a, blockOf a = blockOf x.ra → s.memKind a = .ram) (hf : s.bufferTrue) (hn : x.ra.toNat % 4 + n ≤ 4) :
    ∃ t, loadWithin whole x n s = .ok (goodBytes (s.mem.readBytes x.ra n)) t ∧ s.refilled t := by
  cases whole with
  | false => exact loadPart_plain ho hi hd hk hw hf (by omega)
  | true =>
    have ha := toNat_wordAlign x.ra
    have hb := blockOf_wordAlign x.ra
    obtain ⟨t, h1, h2⟩ := loadPart_plain (s := s) (x := { x with ra := wordAlign x.ra }) (n := 4) ho hi
      ((dHit_congr s hb).trans hd)
      (fun k hk => hr rfl _ (by simp only [wordOf, BitVec.toNat_add, BitVec.toNat_ofNat, ha]; have := x.ra.isLt; omega))
      (fun h a h' => hw h a (h'.trans hb)) hf (by simp only [ha]; omega)
    refine ⟨t, ?_, h2⟩
    simp only [loadWithin, if_true, h1, Res.bind, goodBytes, readBytes_within s.mem x.ra hn]

/-- A part of an access that lies within a word, in plain storage. -/
def State.plainPart (s : State) (little : Bool) (p : Part) : Prop :=
  0 < p.len ∧ p.ea.toNat % 4 + p.len ≤ 4 ∧ s.plain little p.ea p.len

/-- Plain storage stays plain where nothing it rests on changes. -/
theorem State.plainPart.mono {s t : State} {little : Bool} {p : Part} (hp : s.plainPart little p)
    (h : t.spr = s.spr ∧ t.dcache = s.dcache ∧ t.env = s.env) : t.plainPart little p := by
  obtain ⟨h1, h2, h3⟩ := h
  obtain ⟨a, b, c⟩ := hp
  refine ⟨a, b, { inhibited := fun k hk => ?_, absent := fun k hk => ?_, order := fun k hk => ?_, answers := fun k hk => ?_,
                  offChip := fun k hk => ?_ }⟩
  · rw [h1]; exact c.inhibited k hk
  · simpa [State.dHit, State.dClass, h2] using c.absent k hk
  · rw [h1]; exact c.order k hk
  · simpa [State.memKind, h3] using c.answers k hk
  · rw [h3]; exact c.offChip k hk

theorem State.refilled.trans {s t u : State} (h : s.refilled t) (h' : t.refilled u) : s.refilled u := by
  refine ⟨?_, h'.2⟩
  rw [h'.1, h.1]

/-- The translation of a plain part in a calm state. -/
theorem realXlat_plain {s : State} {little : Bool} {p : Part} (hs : s.stale = []) (hp : s.plainPart little p) :
    (realXlat s p.ea).ra = p.ea ∧ (realXlat s p.ea).ocm = false ∧ (realXlat s p.ea).attr.i = true ∧
      (realXlat s p.ea).attr.e = little := by
  have h1 := hp.2.2.inhibited 0 hp.1
  have h2 := hp.2.2.order 0 hp.1
  have h3 := hp.2.2.offChip 0 hp.1
  simp only [BitVec.add_zero] at h1 h2 h3
  simp [realXlat, placed, h3, State.realDataAttr, inForce_settled hs, State.current, h1, h2]

/-- The byte order of every part of plain storage. -/
theorem orders_plain {s : State} {little : Bool} (hs : s.stale = []) {ps : List Part} (hp : ∀ p ∈ ps, s.plainPart little p) :
    orders (ps.map fun p => realXlat s p.ea) = List.replicate ps.length little := by
  rw [List.eq_replicate_iff]
  simp only [orders, List.length_map, List.mem_map, List.map_map, true_and]
  rintro b ⟨p, hm, rfl⟩
  exact (realXlat_plain hs (hp p hm)).2.2.2

/-- Parts in plain storage, loaded: the bytes of memory. -/
theorem loadParts_plain {s u : State} {little : Bool} (hs : s.stale = []) {whole : Bool} {ps : List Part}
    (hp : ∀ p ∈ ps, s.plainPart little p) (hw : whole = true → ∀ p ∈ ps, s.wordsAnswer p.ea p.len) (hb : ∀ p ∈ ps, s.blocksAnswer p.ea p.len) (hu : s.refilled u) :
    ∃ t, loadParts whole ps (ps.map fun p => realXlat s p.ea) u =
        .ok (ps.map fun p => goodBytes (s.mem.readBytes p.ea p.len)) t ∧
      s.refilled t := by
  induction ps generalizing u with
  | nil => exact ⟨u, rfl, hu⟩
  | cons p ps ih =>
    have h0 := hp p (by simp)
    obtain ⟨hr, ho, hi, -⟩ := realXlat_plain hs h0
    have hq : u.plainPart little p := h0.mono (by rw [hu.1]; exact ⟨rfl, rfl, rfl⟩)
    have hd : u.dHit p.ea = none := by simpa using hq.2.2.absent 0 h0.1
    have hl : u.lwl = true → ∀ a, blockOf a = blockOf p.ea → u.memKind a = .ram := by
      intro hl a ha
      have hs' : u.stale = [] := by rw [hu.1]; exact hs
      have hl' : bit s.spr.ccr0 6 = true := by
        have : bit u.spr.ccr0 6 = true := by simpa [State.lwl, inForce_settled hs', State.current] using hl
        rwa [hu.1] at this
      have := hb p (by simp) hl' 0 h0.1 a (by simpa using ha)
      rw [hu.1]
      exact this
    obtain ⟨t, ht, ht2⟩ := loadWithin_plain (whole := whole) (x := realXlat s p.ea) (n := p.len) ho hi (by rw [hr]; exact hd)
      (by rw [hr]; exact hq.2.2.answers)
      (fun h a ha => by rw [hu.1]; exact hw h p (by simp) 0 h0.1 a (by simpa [hr] using ha))
      (by rw [hr]; exact hl) hu.2 (by rw [hr]; exact h0.2.1)
    obtain ⟨v, hv, hv2⟩ := ih (fun q hq => hp q (by simp [hq])) (fun h q hq => hw h q (by simp [hq])) (fun q hq => hb q (by simp [hq]))
      (hu.trans ht2)
    have hm : u.mem = s.mem := by rw [hu.1]
    exact ⟨v, by simp only [List.map_cons, loadParts, ht, hr, hm, Res.bind, hv], hv2⟩

/-- A calm state's fill buffer is empty, so it keeps nothing wrong. -/
theorem calm_refilled {s : State} (h : s.calmData) : s.refilled s :=
  ⟨rfl, by intro f hf; rw [h.dfb] at hf; cases hf⟩

/-! ### The parts of an operand -/

/-- Part of plain storage is plain storage. -/
theorem plain_sub {s : State} {l ea n} (h : s.plain l ea n) (j k : Nat) (hk : j + k ≤ n) : s.plain l (ea + BitVec.ofNat 32 j) k := by
  have e : ∀ i, ea + BitVec.ofNat 32 j + BitVec.ofNat 32 i = ea + BitVec.ofNat 32 (j + i) := by
    intro i; rw [BitVec.add_assoc, ← BitVec.ofNat_add]
  exact ⟨fun i hi => e i ▸ h.inhibited _ (by omega), fun i hi => e i ▸ h.absent _ (by omega),
    fun i hi => e i ▸ h.order _ (by omega), fun i hi => e i ▸ h.answers _ (by omega), fun i hi => e i ▸ h.offChip _ (by omega)⟩

/-- The pieces of an access lie within it. -/
theorem pieces_within (str : Bool) (fuel : Nat) (ea : Word) (n : Nat) :
    ∀ p ∈ pieces str fuel ea n, ∃ j, p.ea = ea + BitVec.ofNat 32 j ∧ j + p.len ≤ n := by
  induction fuel generalizing ea n with
  | zero => simp [pieces]
  | succ fuel ih =>
    unfold pieces
    split
    · simp
    · simp only []
      generalize hk : min n (4 - ea.toNat % 4) = k
      intro p hm
      rcases List.mem_cons.mp hm with rfl | hm
      · exact ⟨0, by simp, by dsimp only; omega⟩
      · obtain ⟨j, e, hj⟩ := ih _ _ p hm
        exact ⟨k + j, by rw [e, BitVec.add_assoc, ← BitVec.ofNat_add], by omega⟩

/-- What the blocks of an access are holds of the blocks of a part of it. -/
theorem blocksAnswer_sub {s : State} {ea : Word} {n : Nat} (h : s.blocksAnswer ea n) (j k : Nat) (hk : j + k ≤ n) :
    s.blocksAnswer (ea + BitVec.ofNat 32 j) k := fun hl i hi a ha =>
  h hl (j + i) (by omega) a (by rw [ha, BitVec.add_assoc, ← BitVec.ofNat_add])

/-- The same for their words. -/
theorem wordsAnswer_sub {s : State} {ea : Word} {n : Nat} (h : s.wordsAnswer ea n) (j k : Nat) (hk : j + k ≤ n) :
    s.wordsAnswer (ea + BitVec.ofNat 32 j) k := fun i hi a ha =>
  h (j + i) (by omega) a (by rw [ha, BitVec.add_assoc, ← BitVec.ofNat_add])

/-- Memory after bytes are written part by part. -/
def writeParts (m : Memory) : List Part → List Byte → Memory
  | [], _ => m
  | p :: ps, bs => writeParts (m.writeBytes p.ea (bs.take p.len)) ps (bs.drop p.len)

/-- The pieces of an access to plain storage: each in one word, their bytes those of memory in order; enough of them for the words
they make. -/
theorem pieces_spec {s : State} {l : Bool} (str : Bool) (fuel : Nat) (ea : Word) (n : Nat) (hf : n < fuel) (hp : s.plain l ea n) :
    (∀ p ∈ pieces str fuel ea n, s.plainPart l p) ∧ n ≤ 4 * (pieces str fuel ea n).length ∧
    (∀ m : Memory, ((pieces str fuel ea n).map fun p => m.readBytes p.ea p.len).flatten = m.readBytes ea n) ∧
    ∀ (m : Memory) (bs : List Byte), bs.length = n → writeParts m (pieces str fuel ea n) bs = m.writeBytes ea bs := by
  induction fuel generalizing ea n with
  | zero => omega
  | succ fuel ih =>
    unfold pieces
    split
    · rename_i h0
      subst h0
      refine ⟨by simp, by simp, by simp [Memory.readBytes], fun m bs hb => ?_⟩
      rw [List.eq_nil_of_length_eq_zero hb]
      rfl
    · rename_i h0
      simp only []
      generalize hk : min n (4 - ea.toNat % 4) = k
      obtain ⟨a, b, c, d⟩ := ih (ea + BitVec.ofNat 32 k) (n - k) (by omega) (plain_sub hp k (n - k) (by omega))
      have hpp : s.plain l ea k := by have := plain_sub hp 0 k (by omega); simpa using this
      refine ⟨?_, by simp only [List.length_cons]; omega, fun m => ?_, fun m bs hb => ?_⟩
      · intro p hm
        rcases List.mem_cons.mp hm with rfl | hm
        · exact ⟨by dsimp only; omega, by dsimp only; omega, hpp⟩
        · exact a p hm
      · have := Memory.readBytes_append m ea k (n - k)
        rw [show k + (n - k) = n by omega] at this
        simp only [List.map_cons, List.flatten_cons, c, this]
      · simp only [writeParts]
        rw [d _ _ (by simp [hb])]
        have := Memory.writeBytes_append m ea (bs.take k) (bs.drop k)
        rw [List.take_append_drop, List.length_take, hb, Nat.min_eq_left (by omega)] at this
        exact this.symm

/-- Values of one byte order in the bytes of their storage. -/
theorem valuesOf_uniform {l : Bool} {n k j : Nat} (hn : 0 < n) (hk : k ≤ j) (bs : List Byte) (hb : bs.length = n * k) :
    valuesOf n (List.replicate j l) bs =
      (List.range k).map fun i => if l then ((bs.drop (n * i)).take n).reverse else (bs.drop (n * i)).take n := by
  induction k generalizing j bs with
  | zero =>
    cases j with
    | zero => rfl
    | succ j => simp only [List.replicate_succ, valuesOf, hb]; simp [hn]
  | succ k ih =>
    obtain ⟨j, rfl⟩ : ∃ i, j = i + 1 := ⟨j - 1, by omega⟩
    have h1 : ¬ bs.length < n := by rw [hb, Nat.mul_succ]; omega
    simp only [List.replicate_succ, valuesOf, h1, if_false]
    rw [ih (by omega) (bs.drop n) (by rw [List.length_drop, hb, Nat.mul_succ]; omega), List.range_succ_eq_map]
    simp only [List.map_cons, List.map_map, Nat.mul_zero, List.drop_zero, List.cons.injEq, true_and]
    apply List.map_congr_left
    intro i _
    simp only [Function.comp, List.drop_drop, Nat.mul_succ, Nat.add_comm]

/-- Values of one byte order as the bytes of their storage. -/
theorem memoryOrder_uniform {l : Bool} {j : Nat} (vs : List (List Byte)) (h : vs.length ≤ j) :
    memoryOrder (List.replicate j l) vs = (vs.map fun v => if l then v.reverse else v).flatten := by
  induction vs generalizing j with
  | nil => cases j <;> simp [memoryOrder, List.replicate_succ]
  | cons v vs ih =>
    obtain ⟨j, rfl⟩ : ∃ i, j = i + 1 := ⟨j - 1, by simp only [List.length_cons] at h; omega⟩
    simp only [List.replicate_succ, memoryOrder, ih (by simpa using h), List.map_cons, List.flatten_cons]

/-! ### Whole accesses -/

/-- Parts received without an error leave no word failed. -/
theorem failedWords_good (k : Nat) (rs : List Received) (h : ∀ r ∈ rs, r.error = false) : failedWords k rs = [] := by
  induction rs generalizing k with
  | nil => rfl
  | cons r rs ih => simp [failedWords, h r (by simp), ih _ fun q hq => h q (by simp [hq])]

/-- A load of an operand in plain storage: its values in the bytes of memory. -/
theorem loadOperand_plain {s : State} {little : Bool} (h : s.calmData) {o : Operand} (hp : s.plain little o.ea o.size)
    (hw : o.single = false → s.wordsAnswer o.ea o.size) (hb : s.blocksAnswer o.ea o.size) (put : Loaded → State → State) :
    ∃ t, loadOperand o none put s =
        .ok { values := o.values (List.replicate o.parts.length little) (s.mem.readBytes o.ea o.size), failed := [] } t ∧
      t = { s with dfb := t.dfb, synced := false } := by
  obtain ⟨h1, -, h3, -⟩ := pieces_spec (o.unit == 0) (o.size + 1) o.ea o.size (by omega) hp
  have h' := calm_unsynced h
  have hpp : ∀ p ∈ o.parts, ({ s with synced := false } : State).plainPart little p := fun p hm => (h1 p hm).mono ⟨rfl, rfl, rfl⟩
  have hbb : ∀ p ∈ o.parts, ({ s with synced := false } : State).blocksAnswer p.ea p.len := fun p hm => by
    obtain ⟨j, e, hj⟩ := pieces_within _ _ _ _ p hm
    rw [e]
    exact blocksAnswer_sub hb j p.len hj
  have hww : (!o.single) = true → ∀ p ∈ o.parts, ({ s with synced := false } : State).wordsAnswer p.ea p.len := fun hs p hm => by
    obtain ⟨j, e, hj⟩ := pieces_within _ _ _ _ p hm
    rw [e]
    exact wordsAnswer_sub (hw (by simpa using hs)) j p.len hj
  obtain ⟨t, ht, ht2⟩ := loadParts_plain h'.settled hpp hww hbb (calm_refilled h')
  have hd : t.debugNow.dbcr1 = 0#32 := by rw [ht2.1]; exact (calm_dbcr1 h : s.debugNow.dbcr1 = 0#32)
  have ho : orders (o.parts.map fun p => realXlat s p.ea) = List.replicate o.parts.length little :=
    orders_plain (s := { s with synced := false }) h'.settled hpp
  refine ⟨t, ?_, by rw [ht2.1]⟩
  simp only [loadOperand, beginAccess_calm h, Res.bind]
  refine interruptible_quiet ?_ (by rw [ht2.1]; exact h.quiet)
  have hx : (o.parts.map fun p => realXlat s p.ea).take o.parts.length = o.parts.map fun p => realXlat s p.ea := by simp
  simp only [Operand.loadWhole, accessed_off (calm_dbcr1 h'), hx, Nat.lt_irrefl, if_false]
  have ht' : loadParts (!o.single) o.parts (o.parts.map fun p => realXlat s p.ea) { s with synced := false } = _ := ht
  rw [ht']
  have hb : (o.parts.map fun p => goodBytes (s.mem.readBytes p.ea p.len)).map Received.bytes =
      o.parts.map fun p => s.mem.readBytes p.ea p.len := by simp [goodBytes]
  simp only [Res.bind, dvcAfter_off hd, ho, Operand.loaded]
  rw [failedWords_good 0 _ (by simp [goodBytes]), hb]
  congr 3
  exact h3 s.mem

/-- Every byte that goes to ordinary memory is accepted. -/
theorem acceptedBytes_ram {s : State} {a : Word} {bs : List Byte}
    (h : ∀ k, k < bs.length → s.memKind (a + BitVec.ofNat 32 k) = .ram) : acceptedBytes false a bs s = (bs.map some, s) := by
  induction bs generalizing a with
  | nil => rfl
  | cons b bs ih =>
    have h0 : s.memKind a = .ram := by simpa using h 0 (by simp)
    have h1 : ∀ k, k < bs.length → s.memKind (a + 1#32 + BitVec.ofNat 32 k) = .ram := fun k hk => by
      have := h (1 + k) (by simp only [List.length_cons]; omega)
      rwa [BitVec.ofNat_add, ← BitVec.add_assoc] at this
    simp [acceptedBytes, h0, ih h1]

/-- Memory written over the bus. -/
theorem busWrite_ram {s : State} {a : Word} {bs : List Byte}
    (h : ∀ k, k < bs.length → s.memKind (a + BitVec.ofNat 32 k) = .ram) :
    busWrite false a bs s = .ok () (writeSys a (bs.map some) s) := by
  have h1 : s.anyKind .absent a bs.length = false := anyKind_false (by decide) h
  have h2 : s.busError a bs.length = false := anyKind_false (by decide) h
  simp [busWrite, h1, h2, acceptedBytes_ram h]

/-- What a store to plain storage changes: memory, and the older words of it. -/
def State.stored (s : State) (m : Memory) (t : State) : Prop := t = { s with mem := m, oldMem := t.oldMem, synced := false }

/-- Parts in plain storage, stored. -/
theorem storeParts_plain {s u : State} {little : Bool} {m : Memory} (h : s.calmData) {ps : List Part}
    (hp : ∀ p ∈ ps, s.plainPart little p) (bs : List Byte) (hu : s.stored m u) :
    ∃ t, storeParts ps bs (ps.map fun p => realXlat s p.ea) u = .ok () t ∧ s.stored (writeParts m ps bs) t := by
  induction ps generalizing u m bs with
  | nil => exact ⟨u, rfl, hu⟩
  | cons p ps ih =>
    have h0 := hp p (by simp)
    obtain ⟨hr, ho, hi, -⟩ := realXlat_plain h.settled h0
    unfold State.stored at hu
    have hq : u.plainPart little p := h0.mono (by rw [hu]; exact ⟨rfl, rfl, rfl⟩)
    have hd : u.dHit p.ea = none := by simpa using hq.2.2.absent 0 h0.1
    have hw := busWrite_ram (bs := bs.take p.len) fun k hk => hq.2.2.answers k (by rw [List.length_take] at hk; omega)
    have hf : dropFillBuffer p.ea u = u := by
      have : u.dfb = none := by rw [hu]; exact h.dfb
      simp [dropFillBuffer, this]
    have hm : u.mem = m := by rw [hu]
    obtain ⟨v, hv, hv2⟩ := ih (m := m.writeBytes p.ea (bs.take p.len)) (u := writeSys p.ea ((bs.take p.len).map some) u)
      (fun q hq => hp q (by simp [hq])) (bs.drop p.len)
      (by unfold State.stored writeSys; simp only [Memory.writeSome_all]; rw [hm, hu])
    refine ⟨v, ?_, hv2⟩
    simp only [List.map_cons, storeParts, storePart, hr, ho, hi, hf, hd, hw, Bool.false_eq_true, if_false, if_true,
      Option.isSome_none, Res.bind, hv]

/-- A store of values to an operand in plain storage: its bytes from its address on. -/
theorem storeOperand_plain {s : State} {little : Bool} (h : s.calmData) {o : Operand} (hp : s.plain little o.ea o.size)
    (vs : List (List Byte)) (hl : (o.bytes (List.replicate o.parts.length little) vs).length = o.size) :
    ∃ t, storeOperand o none vs s = .ok () t ∧
      s.stored (s.mem.writeBytes o.ea (o.bytes (List.replicate o.parts.length little) vs)) t := by
  obtain ⟨h1, -, -, h4⟩ := pieces_spec (o.unit == 0) (o.size + 1) o.ea o.size (by omega) hp
  have h' := calm_unsynced h
  have ho : orders (o.parts.map fun p => realXlat s p.ea) = List.replicate o.parts.length little := orders_plain h.settled h1
  obtain ⟨t, ht, ht2⟩ := storeParts_plain (u := { s with synced := false }) h h1
    (o.bytes (List.replicate o.parts.length little) vs) rfl
  rw [h4 _ _ hl] at ht2
  refine ⟨t, ?_, ht2⟩
  unfold State.stored at ht2
  have hd : t.debugNow.dbcr1 = 0#32 := by rw [ht2]; exact (calm_dbcr1 h : s.debugNow.dbcr1 = 0#32)
  simp only [storeOperand, beginAccess_calm h, Res.bind]
  refine interruptible_quiet ?_ (by rw [ht2]; exact h.quiet)
  have hx : (o.parts.map fun p => realXlat s p.ea).take o.parts.length = o.parts.map fun p => realXlat s p.ea := by simp
  simp only [Operand.storeWhole, accessed_off (calm_dbcr1 h'), hx, Nat.lt_irrefl, if_false, ho]
  have ht' : storeParts o.parts (o.bytes (List.replicate o.parts.length little) vs) (o.parts.map fun p => realXlat s p.ea)
    { s with synced := false } = _ := ht
  rw [ht']
  simp only [Res.bind, dvcAfter_off hd]

/-! ### Scalars -/

/-- How many parts a scalar has. -/
theorem parts_scalar_pos {s : State} {little : Bool} {ea : Word} {n : Nat} (hn : 0 < n) (hp : s.plain little ea n) :
    0 < (scalar ea n).parts.length := by
  have := (pieces_spec ((scalar ea n).unit == 0) (n + 1) ea n (by omega) hp).2.1
  simp only [Operand.parts, scalar] at *
  omega

/-- A load of a scalar from plain storage: the word that its bytes make in register order. -/
theorem loadScalar_plain {s : State} {little : Bool} (h : s.calmData) {ea : Word} {n : Nat} (hn : 0 < n)
    (hp : s.plain little ea n) (hb : s.blocksAnswer ea n) (rD : Reg) (f : Word → Word) :
    ∃ t, loadScalar rD ea n none f s =
      .ok (f (ofBytes (if little then (s.mem.readBytes ea n).reverse else s.mem.readBytes ea n))) t ∧
      t = { s with dfb := t.dfb, synced := false } := by
  obtain ⟨t, ht, ht2⟩ := loadOperand_plain h (o := scalar ea n) hp (by simp [scalar]) hb (putScalar rD)
  refine ⟨t, ?_, ht2⟩
  have hv := valuesOf_uniform (l := little) (n := n) (k := 1) hn (parts_scalar_pos hn hp) (s.mem.readBytes ea n) (by simp)
  have h0 : ¬ n = 0 := by omega
  simp only [scalar] at hv ht
  simp only [loadScalar, scalar, ht, Res.bind, Operand.values, h0, if_false, if_true, hv]
  congr 3
  have hl : (s.mem.readBytes ea n).take n = s.mem.readBytes ea n := List.take_of_length_le (by simp)
  cases little <;> simp [List.range_one, hl]

/-- A store of a scalar to plain storage: its bytes, in memory order, from its address on. -/
theorem storeScalar_plain {s : State} {little : Bool} (h : s.calmData) {ea : Word} {n : Nat} (hn : 0 < n)
    (hp : s.plain little ea n) (v : Word) :
    ∃ t, storeScalar ea n none v s = .ok () t ∧
      s.stored (s.mem.writeBytes ea (if little then (bytesOf n v).reverse else bytesOf n v)) t := by
  have h0 : ¬ n = 0 := by omega
  have e : (scalar ea n).bytes (List.replicate (scalar ea n).parts.length little) [bytesOf n v] =
      if little then (bytesOf n v).reverse else bytesOf n v := by
    have := memoryOrder_uniform (l := little) [bytesOf n v] (parts_scalar_pos hn hp)
    unfold Operand.bytes
    rw [if_neg (by simpa [scalar] using h0), this]
    cases little <;> simp
  have := storeOperand_plain h (o := scalar ea n) hp [bytesOf n v] (by rw [e]; cases little <;> simp [bytesOf, scalar])
  rw [e] at this
  exact this

end Sys2Proof.Machine
end

