-- ==== Sys2Proof/Laws/Debug.lean ====
section
/-! SUPPORT. Laws/Debug.lean: what a debug event can do, said once, and the context registers when no old value of one is in
force (61_timers_debug.md R870, R871). -/

namespace Sys2Proof.Machine

theorem debugNow_settled {s : State} (h : s.stale = []) : s.debugNow = s.dbg := by
  simp only [State.debugNow, inForce_settled h]
  rfl

theorem edm_settled {s : State} (h : s.stale = []) : s.edm = bit s.dbg.dbcr0 0 := by
  rw [State.edm, inForce_settled h]
  rfl

theorem idm_settled {s : State} (h : s.stale = []) : s.idm = bit s.dbg.dbcr0 1 := by
  rw [State.idm, inForce_settled h]
  rfl

@[simp] theorem recordDebug_pc (ide : Bool) (ev : Word) (s : State) : (recordDebug ide ev s).pc = s.pc := rfl
@[simp] theorem recordDebug_msr (ide : Bool) (ev : Word) (s : State) : (recordDebug ide ev s).msr = s.msr := rfl
@[simp] theorem recordDebug_run (ide : Bool) (ev : Word) (s : State) : (recordDebug ide ev s).run = s.run := rfl
@[simp] theorem recordDebug_dbsr (ide : Bool) (ev : Word) (s : State) :
    (recordDebug ide ev s).dbg.dbsr = s.dbg.dbsr ||| ev ||| oneBit 11 ide := rfl

/-- The four outcomes of a debug event, each under its modes: a stop, a debug interrupt, a debug-wait stop, or the recorded event
alone. -/
theorem debugEventWith_cases (de ide : Bool) (ev ret : Word) (s : State) :
    let t := recordDebug (ide && !de) ev s
    (s.edm = true ∧ debugEventWith de ide ev ret s =
      .halted { t with run := .stopped, dbgPend := s.dbgPend || (s.idm && de), retire := .excepted }) ∨
    (s.edm = false ∧ s.idm = true ∧ de = true ∧ debugEventWith de ide ev ret s = .halted (interruptEntry .debug ret t)) ∨
    (s.edm = false ∧ s.idm = false ∧ s.dwe = true ∧
      debugEventWith de ide ev ret s = .halted { t with run := .debugWait, retire := .excepted }) ∨
    (s.edm = false ∧ (s.idm = true → de = false) ∧ (s.idm = false → s.dwe = false) ∧
      debugEventWith de ide ev ret s = .goOn t) := by
  unfold debugEventWith
  cases s.edm <;> cases s.idm <;> cases de <;> cases s.dwe <;> simp

/-- In internal mode with debug interrupts enabled an event is recorded and its interrupt taken. -/
theorem debugEventWith_internal {s : State} (ide : Bool) (ev ret : Word) (he : s.edm = false) (hi : s.idm = true) :
    debugEventWith true ide ev ret s = .halted (interruptEntry .debug ret (recordDebug false ev s)) := by
  simp [debugEventWith, he, hi]

end Sys2Proof.Machine
end

