-- ==== Sys2Proof/Laws/Encoding.lean ====
section
/-! SUPPORT. Laws/Encoding.lean: what each field of each layout reads back as. The round trip of decode and encode is an
obligation; these lemmas are the pieces a proof of it rewrites with. -/

namespace Sys2Proof

theorem extract_ofBool (r : Bool) : (BitVec.ofBool r == 1#1) = r := by cases r <;> rfl

section EncX
variable (o : BitVec 6) (a b c : BitVec 5) (x : BitVec 10) (r : Bool)

@[simp] theorem opcd_encX : (encX o a b c x r).extractLsb' 26 6 = o := by
  unfold encX; simp only [BitVec.extractLsb'_append_eq_ite]; simp
@[simp] theorem fldA_encX : fldA (encX o a b c x r) = a := by
  unfold encX fldA; simp only [BitVec.extractLsb'_append_eq_ite]; simp
@[simp] theorem fldB_encX : fldB (encX o a b c x r) = b := by
  unfold encX fldB; simp only [BitVec.extractLsb'_append_eq_ite]; simp
@[simp] theorem fldC_encX : fldC (encX o a b c x r) = c := by
  unfold encX fldC; simp only [BitVec.extractLsb'_append_eq_ite]; simp
@[simp] theorem fldXo_encX : fldXo (encX o a b c x r) = x := by
  unfold encX fldXo; simp only [BitVec.extractLsb'_append_eq_ite]; simp
@[simp] theorem fldRc_encX : fldRc (encX o a b c x r) = r := by
  unfold encX fldRc; simp only [BitVec.extractLsb'_append_eq_ite]; cases r <;> simp
end EncX

section EncD
variable (o : BitVec 6) (a b : BitVec 5) (i : BitVec 16)

@[simp] theorem opcd_encD : (encD o a b i).extractLsb' 26 6 = o := by
  unfold encD; simp only [BitVec.extractLsb'_append_eq_ite]; simp
@[simp] theorem fldA_encD : fldA (encD o a b i) = a := by
  unfold encD fldA; simp only [BitVec.extractLsb'_append_eq_ite]; simp
@[simp] theorem fldB_encD : fldB (encD o a b i) = b := by
  unfold encD fldB; simp only [BitVec.extractLsb'_append_eq_ite]; simp
@[simp] theorem fldImm_encD : fldImm (encD o a b i) = i := by
  unfold encD fldImm; simp only [BitVec.extractLsb'_append_eq_ite]; simp
end EncD

section EncI
variable (o : BitVec 6) (li : BitVec 24) (aa lk : Bool)

@[simp] theorem opcd_encI : (encI o li aa lk).extractLsb' 26 6 = o := by
  unfold encI; simp only [BitVec.extractLsb'_append_eq_ite]; simp
@[simp] theorem li_encI : (encI o li aa lk).extractLsb' 2 24 = li := by
  unfold encI; simp only [BitVec.extractLsb'_append_eq_ite]; simp
@[simp] theorem fldAa_encI : fldAa (encI o li aa lk) = aa := by
  unfold encI fldAa; simp only [BitVec.extractLsb'_append_eq_ite]; cases aa <;> simp
@[simp] theorem fldRc_encI : fldRc (encI o li aa lk) = lk := by
  unfold encI fldRc; simp only [BitVec.extractLsb'_append_eq_ite]; cases lk <;> simp
end EncI

section EncB
variable (o : BitVec 6) (a b : BitVec 5) (bd : BitVec 14) (aa lk : Bool)

@[simp] theorem opcd_encB : (encB o a b bd aa lk).extractLsb' 26 6 = o := by
  unfold encB; simp only [BitVec.extractLsb'_append_eq_ite]; simp
@[simp] theorem fldA_encB : fldA (encB o a b bd aa lk) = a := by
  unfold encB fldA; simp only [BitVec.extractLsb'_append_eq_ite]; simp
@[simp] theorem fldB_encB : fldB (encB o a b bd aa lk) = b := by
  unfold encB fldB; simp only [BitVec.extractLsb'_append_eq_ite]; simp
@[simp] theorem bd_encB : (encB o a b bd aa lk).extractLsb' 2 14 = bd := by
  unfold encB; simp only [BitVec.extractLsb'_append_eq_ite]; simp
@[simp] theorem fldAa_encB : fldAa (encB o a b bd aa lk) = aa := by
  unfold encB fldAa; simp only [BitVec.extractLsb'_append_eq_ite]; cases aa <;> simp
@[simp] theorem fldRc_encB : fldRc (encB o a b bd aa lk) = lk := by
  unfold encB fldRc; simp only [BitVec.extractLsb'_append_eq_ite]; cases lk <;> simp
end EncB

section EncM
variable (o : BitVec 6) (a b c mb me : BitVec 5) (r : Bool)

@[simp] theorem opcd_encM : (encM o a b c mb me r).extractLsb' 26 6 = o := by
  unfold encM; simp only [BitVec.extractLsb'_append_eq_ite]; simp
@[simp] theorem fldA_encM : fldA (encM o a b c mb me r) = a := by
  unfold encM fldA; simp only [BitVec.extractLsb'_append_eq_ite]; simp
@[simp] theorem fldB_encM : fldB (encM o a b c mb me r) = b := by
  unfold encM fldB; simp only [BitVec.extractLsb'_append_eq_ite]; simp
@[simp] theorem fldC_encM : fldC (encM o a b c mb me r) = c := by
  unfold encM fldC; simp only [BitVec.extractLsb'_append_eq_ite]; simp
@[simp] theorem mb_encM : (encM o a b c mb me r).extractLsb' 6 5 = mb := by
  unfold encM; simp only [BitVec.extractLsb'_append_eq_ite]; simp
@[simp] theorem me_encM : (encM o a b c mb me r).extractLsb' 1 5 = me := by
  unfold encM; simp only [BitVec.extractLsb'_append_eq_ite]; simp
@[simp] theorem fldRc_encM : fldRc (encM o a b c mb me r) = r := by
  unfold encM fldRc; simp only [BitVec.extractLsb'_append_eq_ite]; cases r <;> simp
end EncM

/-- The two halves of a split field, swapped back (R289). -/
@[simp] theorem split_rejoin (n : BitVec 10) : n.extractLsb' 5 5 ++ n.extractLsb' 0 5 = n := by
  ext i hi
  simp only [BitVec.getElem_append, BitVec.getElem_extractLsb']
  split
  · simp [← BitVec.getLsbD_eq_getElem]
  · rename_i h
    simp [← BitVec.getLsbD_eq_getElem, Nat.add_sub_cancel' (Nat.le_of_not_lt h)]

/-- A CR field number that stands above two reserved bits reads back, and those bits are 0. -/
@[simp] theorem crf_field (f : BitVec 3) : (f ++ 0#2).extractLsb' 2 3 = f := by revert f; decide
@[simp] theorem crf_reserved (f : BitVec 3) : (f ++ 0#2).extractLsb' 0 2 = 0#2 := by revert f; decide

/-- The two reserved bits and the eight mask bits of `mtcrf` (R288). -/
@[simp] theorem crm_high_reserved (m : BitVec 4) : (0#1 ++ m).extractLsb' 4 1 = 0#1 := by revert m; decide
@[simp] theorem crm_low_reserved (m : BitVec 4) : (m ++ 0#1).extractLsb' 0 1 = 0#1 := by revert m; decide
@[simp] theorem crm_high (m : BitVec 4) : (0#1 ++ m).extractLsb' 0 4 = m := by revert m; decide
@[simp] theorem crm_low (m : BitVec 4) : (m ++ 0#1).extractLsb' 1 4 = m := by revert m; decide
@[simp] theorem crm_rejoin (m : BitVec 8) : m.extractLsb' 4 4 ++ m.extractLsb' 0 4 = m := by
  ext i hi
  simp only [BitVec.getElem_append, BitVec.getElem_extractLsb']
  split
  · simp [← BitVec.getLsbD_eq_getElem]
  · rename_i h
    simp [← BitVec.getLsbD_eq_getElem, Nat.add_sub_cancel' (Nat.le_of_not_lt h)]

/-- A word of an X-layout instruction with primary opcode 31, 19 or 4 goes to the decoder of that opcode, its fields intact. -/
theorem decode_encX31 (a b c x r) : decode (encX 31#6 a b c x r) = decode31 x.toNat a b c r := by
  simp only [decode, opcd_encX, fldA_encX, fldB_encX, fldC_encX, fldXo_encX, fldRc_encX]; rfl
theorem decode_encX19 (a b c x r) : decode (encX 19#6 a b c x r) = decode19 x.toNat a b c r := by
  simp only [decode, opcd_encX, fldA_encX, fldB_encX, fldC_encX, fldXo_encX, fldRc_encX]; rfl
theorem decode_encX4 (a b c x r) : decode (encX 4#6 a b c x r) = decode4 x.toNat a b c r := by
  simp only [decode, opcd_encX, fldA_encX, fldB_encX, fldC_encX, fldXo_encX, fldRc_encX]; rfl

end Sys2Proof
end

