-- ==== Sys2Proof/Laws/Flags.lean ====
section
/-! SUPPORT. Laws/Flags.lean: sums with carry and overflow, the record of a result, XER: what each operation of
Machine/Flags.lean does, in the terms of Safety.lean. -/

namespace Sys2Proof.Machine

theorem toInt_eq_ite (x : Word) : x.toInt = if x.toNat < 2147483648 then (x.toNat : Int) else x.toNat - 4294967296 := by
  rw [BitVec.toInt_eq_toNat_cond]; split <;> split <;> omega

theorem bit_zero_eq (x : Word) : bit x 0 = decide (2147483648 ≤ x.toNat) := by
  simp only [bit, BitVec.getLsbD, Nat.testBit, Nat.shiftRight_eq_div_pow]
  have := x.isLt
  have h : x.toNat / 2 ^ (31 - 0) = if 2147483648 ≤ x.toNat then 1 else 0 := by split <;> omega
  rw [h]
  split <;> simp [*]

/-- The three results of `ADD3` (42_integer_arith.md R502, R503): the sum modulo 2^32, the carry out of it, and whether the
signed sum lies outside 32 bits. -/
theorem add3_res (x y : Word) (c : Bool) : (add3 x y c).res = BitVec.ofNat 32 (x.toNat + y.toNat + c.toNat) := by
  apply BitVec.eq_of_toNat_eq
  have := x.isLt; have := y.isLt
  cases c <;> simp [add3, sum33, ofBit]

theorem add3_ca (x y : Word) (c : Bool) : (add3 x y c).ca = decide (2 ^ 32 ≤ x.toNat + y.toNat + c.toNat) := by
  have := x.isLt; have := y.isLt
  simp only [add3, BitVec.getLsbD, Nat.testBit, Nat.shiftRight_eq_div_pow]
  have h : (sum33 x y c).toNat = x.toNat + y.toNat + c.toNat := by
    cases c <;> simp [sum33, ofBit] <;> omega
  rw [h]
  have h2 : (x.toNat + y.toNat + c.toNat) / 2 ^ 32 = if 2 ^ 32 ≤ x.toNat + y.toNat + c.toNat then 1 else 0 := by
    cases c <;> simp <;> split <;> omega
  rw [h2]
  split <;> simp [*] <;> omega

theorem add3_ov (x y : Word) (c : Bool) : (add3 x y c).ov = outside32 (x.toInt + y.toInt + c.toNat) := by
  have hx := x.isLt; have hy := y.isLt
  have h : (add3 x y c).ov = (bit x 0 == bit y 0 && bit (add3 x y c).res 0 != bit x 0) := rfl
  rw [h, add3_res]
  simp only [bit_zero_eq, outside32, toInt_eq_ite, BitVec.toNat_ofNat]
  cases c <;> simp only [Bool.toNat_false, Bool.toNat_true] <;>
  · rw [Bool.eq_iff_iff]
    simp only [Bool.and_eq_true, beq_iff_eq, bne_iff_ne, ne_eq, decide_eq_decide, decide_eq_true_eq]
    split <;> split <;> omega

/-- The record of a result in CR0 (10_state.md R46). -/
theorem recorded_recordIf {s u : State} (rc : Bool) (res : Word) (h : u.cr = s.cr) :
    Recorded rc res s (u.recordIf rc res).advance := by
  intro k hk
  have hx : (u.recordIf rc res).advance.xer = u.xer := by simp
  have hc : (u.recordIf rc res).advance.cr = if rc then withCrField u.cr 0#3 (recordBits res u.so) else u.cr :=
    recordIf_cr u rc res
  rw [hx, hc, h]
  cases rc
  · simp
  · simp only [if_true, bit_withCrField _ _ _ _ hk, recordBits, getLsbD_crBits, true_and]
    have e0 : res.slt 0#32 = decide (res.toInt < 0) := by simp [BitVec.slt]
    have e1 : (0#32).slt res = decide (0 < res.toInt) := by simp [BitVec.slt]
    have e2 : (res == 0#32) = decide (res.toInt = 0) := by
      rw [Bool.beq_eq_decide_eq]; congr 1
      apply propext
      rw [← BitVec.toInt_inj]; simp
    rw [e0, e1, e2, State.so]
    by_cases hk4 : k / 4 = 0
    · have : k = 0 ∨ k = 1 ∨ k = 2 ∨ k = 3 := by omega
      rcases this with rfl | rfl | rfl | rfl <;> simp
    · have a0 : k ≠ 0 := by omega
      have a1 : k ≠ 1 := by omega
      have a2 : k ≠ 2 := by omega
      have a3 : k ≠ 3 := by omega
      have : ¬ (k / 4 = (0#3).toNat) := by simpa using hk4
      simp [a0, a1, a2, a3, hk4]

/-- XER when only OV and SO may be written. -/
theorem xerAfter_ovIf {s t : State} (oe ov : Bool) (h : t.xer = if oe then withOv s.xer ov else s.xer) :
    XerAfter none (written oe ov) s t := by
  intro k hk
  rw [h]
  cases oe
  · simp only [written]
    by_cases h0 : k = 0
    · subst h0; simp
    · by_cases h1 : k = 1
      · subst h1; simp
      · by_cases h2 : k = 2
        · subst h2; simp
        · simp [h0, h1, h2]
  · simp only [written, if_true, bit_withOv _ _ _ hk, Option.getD_some]
    by_cases h2 : k = 2
    · subst h2; simp
    · simp [h2]

/-- XER when CA is written, and OV and SO may be. -/
theorem xerAfter_setCa_ovIf {s t : State} (ca oe ov : Bool)
    (h : t.xer = if oe then withOv (setBit s.xer 2 ca) ov else setBit s.xer 2 ca) :
    XerAfter (some ca) (written oe ov) s t := by
  intro k hk
  have b0 : bit (setBit s.xer 2 ca) 0 = bit s.xer 0 := by rw [bit_setBit _ _ _ _ (by omega) (by omega)]; simp
  rw [h]
  cases oe
  · simp only [written, Bool.false_eq_true, if_false, bit_setBit _ _ _ _ (show 2 < 32 by omega) hk, Option.getD_none,
      Option.getD_some, Bool.or_false]
    by_cases h0 : k = 0
    · subst h0; simp
    · by_cases h1 : k = 1
      · subst h1; simp
      · simp [h0, h1]
  · simp only [written, if_true, bit_withOv _ _ _ hk, Option.getD_some, b0, bit_setBit _ _ _ _ (show 2 < 32 by omega) hk]

end Sys2Proof.Machine
end

