-- ==== Sys2Proof/Laws/Kept.lean ====
section
/-! SUPPORT. Laws/Kept.lean: what interrupts, debug events, resets, ticks and the instruction side keep, whatever the state: the
terms of the invariants of Safety.lean, one relation `Kept` for all of them. -/

namespace Sys2Proof.Machine

/-- The pc is a multiple of 4. -/
def State.aligned (s : State) : Prop := s.pc.extractLsb' 0 2 = 0#2

/-- Canonical memories, an aligned pc, PVR and a data cache without a block held twice are kept from `s` to `t`. -/
structure Kept (s t : State) : Prop where
  wf : s.memoriesWf → t.memoriesWf
  aligned : s.aligned → t.aligned
  pvr : t.spr.pvr = s.spr.pvr
  distinct : s.linesDistinct → t.linesDistinct

theorem Kept.refl (s : State) : Kept s s := ⟨id, id, rfl, id⟩

theorem Kept.trans {s t u : State} (h : Kept s t) (h' : Kept t u) : Kept s u :=
  ⟨fun x => h'.wf (h.wf x), fun x => h'.aligned (h.aligned x), h'.pvr.trans h.pvr, fun x => h'.distinct (h.distinct x)⟩

theorem DataSide.kept {s t : State} (h : DataSide s t) : Kept s t :=
  ⟨h.wf, fun ha => by unfold State.aligned; rw [h.pc]; exact ha, by rw [h.frame], h.distinct⟩

/-- What `Kept` rests on is the same but for the pc. -/
def SameParts (s t : State) : Prop :=
  t.mem = s.mem ∧ t.dataOcm = s.dataOcm ∧ t.instrOcm = s.instrOcm ∧ t.dcache = s.dcache ∧ t.spr.pvr = s.spr.pvr

/-- A change that leaves the memories, data cache and PVR and sets an aligned pc. -/
theorem Kept.of_pc {s t : State} (h : SameParts s t) (ha : s.aligned → t.aligned) : Kept s t := by
  obtain ⟨hm, hd, hi, hc, hp⟩ := h
  refine ⟨fun h => by unfold State.memoriesWf; rw [hm, hd, hi]; exact h, ha, hp, fun h i => ?_⟩
  have := h i
  simpa [State.distinctLines, State.dClass, hc] using this

/-- A change that leaves the memories, data cache, PVR and the pc. -/
theorem Kept.of_eq {s t : State} (h : SameParts s t) (hc : t.pc = s.pc) : Kept s t :=
  .of_pc h fun h => by unfold State.aligned; rw [hc]; exact h

/-- A change of other fields, where every equality holds by unfolding. -/
theorem sameParts_refl (s : State) : SameParts s s := ⟨rfl, rfl, rfl, rfl, rfl⟩

/-! ### Aligned addresses -/

theorem aligned_wordAlign (w : Word) : (wordAlign w).extractLsb' 0 2 = 0#2 := by
  apply BitVec.eq_of_getLsbD_eq
  intro i hi
  have : (0xFFFFFFFC#32).getLsbD i = false := by revert hi; revert i; decide
  simp [wordAlign, BitVec.getLsbD_extractLsb', this]

theorem aligned_add {a b : Word} (ha : a.extractLsb' 0 2 = 0#2) (hb : b.extractLsb' 0 2 = 0#2) :
    (a + b).extractLsb' 0 2 = 0#2 := by
  have h : ∀ x : Word, x.extractLsb' 0 2 = x.setWidth 2 := fun x => by
    apply BitVec.eq_of_getLsbD_eq
    intro i hi
    simp [hi]
  rw [h] at *
  rw [BitVec.setWidth_add _ _ (by decide), ha, hb]
  rfl

theorem aligned_append (n : Nat) (d : BitVec n) : ((d ++ 0#2).signExtend 32).extractLsb' 0 2 = 0#2 := by
  apply BitVec.eq_of_getLsbD_eq
  intro i hi
  have : i < 2 := hi
  simp only [BitVec.getLsbD_extractLsb', BitVec.getLsbD_signExtend, BitVec.getLsbD_append]
  simp [this, show i < n + 2 by omega]

theorem kept_advance (s : State) : Kept s s.advance := .of_pc (sameParts_refl s) fun h => aligned_add h (by decide)

/-! ### Interrupts, debug events, returns -/

theorem aligned_vector (s : State) (e : Exc) : (s.vector e).extractLsb' 0 2 = 0#2 := by
  have h : (e.offset).extractLsb' 0 2 = 0#2 := by
    cases e <;> simp only [Exc.offset] <;> decide
  apply BitVec.eq_of_getLsbD_eq
  intro i hi
  have h1 : (0xFFFF0000#32).getLsbD i = false := by revert hi; revert i; decide
  have h2 : e.offset.getLsbD i = false := by
    have := congrArg (fun x => x.getLsbD i) h
    simpa [BitVec.getLsbD_extractLsb', hi] using this
  simp [State.vector, BitVec.getLsbD_extractLsb', h1, h2]

theorem enter_pvr (r : SpecialRegs) (e : Exc) (ret msr : Word) : (r.enter e ret msr).pvr = r.pvr := by
  unfold SpecialRegs.enter; split <;> rfl

theorem kept_interruptEntry (e : Exc) (ret : Word) (s : State) : Kept s (interruptEntry e ret s) :=
  .of_pc ⟨rfl, rfl, rfl, rfl, enter_pvr _ _ _ _⟩ fun _ => aligned_vector s e

theorem kept_recordDebug (ide : Bool) (ev : Word) (s : State) : Kept s (recordDebug ide ev s) :=
  .of_eq (sameParts_refl s) rfl

theorem kept_debugEventWith (de ide : Bool) (ev ret : Word) (s : State) : Kept s (debugEventWith de ide ev ret s).state := by
  refine (kept_recordDebug (ide && !de) ev s).trans ?_
  unfold debugEventWith
  simp only []
  split
  · exact .of_eq (sameParts_refl _) rfl
  · split
    · exact kept_interruptEntry _ _ _
    · split
      · exact .of_eq (sameParts_refl _) rfl
      · exact .refl _

theorem kept_debugEventWith_halted {de ide : Bool} {ev ret : Word} {s t : State}
    (h : debugEventWith de ide ev ret s = .halted t) : Kept s t := by
  have := kept_debugEventWith de ide ev ret s
  rw [h] at this
  exact this

theorem kept_takeInterrupt (e : Exc) (ret : Word) (s : State) : Kept s (takeInterrupt e ret s) := by
  have h := kept_interruptEntry e ret s
  unfold takeInterrupt
  simp only []
  split
  · exact h.trans (kept_debugEventWith _ _ _ _ _)
  · exact h

theorem Partly.kept {s t : State} (h : Partly s t) : Kept s t := by
  obtain ⟨u, hu, e⟩ := h
  rw [e]
  exact hu.kept.trans (.of_eq (sameParts_refl u) rfl)

theorem Ended.kept {s t : State} (h : Ended s t) : Kept s t := by
  obtain ⟨u, hu, ⟨e, rfl⟩ | ⟨de, ide, ev, ret, he⟩⟩ := h
  · exact hu.kept.trans (kept_takeInterrupt _ _ _)
  · exact hu.kept.trans (kept_debugEventWith_halted he)

theorem kept_returnTo (target msr : Word) (s : State) : Kept s (returnTo target msr s) := by
  unfold returnTo
  simp only []
  split
  · exact .of_pc (sameParts_refl s) fun _ => aligned_wordAlign target
  · exact .of_pc (sameParts_refl s) fun _ => aligned_wordAlign target

/-! ### Context registers -/

theorem kept_setCurrent (s : State) (r : CtxReg) (v : Word) : Kept s (s.setCurrent r v) := by
  cases r <;> exact .of_eq (sameParts_refl s) rfl

theorem kept_writeCtx (s : State) (r : CtxReg) (v : Word) : Kept s (s.writeCtx r v) := by
  unfold State.writeCtx
  split
  · exact .refl s
  · have h : Kept s { s with stale := s.stale ++ [{ reg := r, old := s.current r, live := true, left := oldContext r }] } :=
      .of_eq (sameParts_refl s) rfl
    exact h.trans (kept_setCurrent _ r v)

theorem kept_writeMsr (s : State) (v : Word) : Kept s (s.writeMsr v) := by
  unfold State.writeMsr
  split
  · exact .of_eq (sameParts_refl _) rfl
  · exact kept_writeCtx _ _ _

/-! ### Reset and timers -/

theorem kept_resetProcessor (k : ResetKind) (wd : Bool) (s : State) : Kept s (resetProcessor k wd s) := by
  refine ⟨id, fun _ => by unfold State.aligned; exact (by decide : (0xFFFFFFFC#32 : Word).extractLsb' 0 2 = 0#2), rfl, fun _ i => ?_⟩
  intro h
  have e : (resetProcessor k wd s).dClass i = { wayA := DLine.zero, wayB := DLine.zero, lru := false } := by
    show (Vector.replicate 256 _)[i.toNat]'_ = _
    simp
  rw [e] at h
  cases h

theorem kept_tblChanged (old new : Word) (s : State) : Kept s (tblChanged old new s) := by
  have hf : Kept s (fitTimeout old new s) := by
    unfold fitTimeout
    split
    · exact .of_eq (sameParts_refl _) rfl
    · exact .refl s
  unfold tblChanged
  split
  · exact .refl s
  · refine hf.trans ?_
    unfold watchdogTimeout
    split
    · split
      · exact .of_eq (sameParts_refl _) rfl
      · split
        · exact .of_eq (sameParts_refl _) rfl
        · split
          · exact .refl _
          · exact kept_resetProcessor _ _ _
    · exact .refl _

theorem kept_tick (s : State) : Kept s (tick s) := by
  have hp : Kept s (pitTick s) := by
    unfold pitTick
    split
    · exact .refl s
    · split
      · exact .of_eq (sameParts_refl _) rfl
      · exact .of_eq (sameParts_refl _) rfl
  unfold tick
  split
  · exact .refl s
  · exact (hp.trans (.of_eq (t := timeBaseTick (pitTick s)) (sameParts_refl _) rfl)).trans (kept_tblChanged _ _ _)

theorem kept_ticks (n : Nat) (s : State) : Kept s (ticks n s) := by
  induction n generalizing s with
  | zero => exact .refl s
  | succ n ih => exact (kept_tick s).trans (ih _)

/-! ### The instruction side -/

/-- What fetching and fetching ahead may change: the instruction cache with what leaves it, the record of bus fetches, the counter of
free values, and the error of a fetch ahead. -/
def FetchSide (s t : State) : Prop :=
  t = { s with icache := t.icache, oldLines := t.oldLines, busFetch := t.busFetch, draws := t.draws, aheadFault := t.aheadFault }

theorem FetchSide.refl (s : State) : FetchSide s s := rfl

theorem FetchSide.trans {s t u : State} (h : FetchSide s t) (h' : FetchSide t u) : FetchSide s u := by
  unfold FetchSide at *
  rw [h', h]

theorem FetchSide.kept {s t : State} (h : FetchSide s t) : Kept s t := by
  unfold FetchSide at h
  rw [h]
  exact .of_eq (sameParts_refl s) rfl

/-- A change of the counter of free values only. -/
theorem FetchSide.of_draws {s t : State} (h : t = { s with draws := t.draws }) : FetchSide s t := by
  unfold FetchSide
  rw [h]

theorem fetchSide_drawBool (s : State) : FetchSide s (drawBool s).2 := rfl

theorem fetchSide_pickWord (now : Word) (others : List Word) (s : State) : FetchSide s (pickWord now others s).2 := by
  unfold pickWord
  split <;> rfl

theorem fetchSide_busByte (a : Word) (s : State) : FetchSide s (busByte a s).2 := .of_draws (busByte_light a s)

theorem fetchSide_memWord (ra : Word) (s : State) : FetchSide s (memWord ra s).2 := by
  simp only [memWord]
  exact (((fetchSide_busByte ra s).trans (fetchSide_busByte (ra + 1#32) _)).trans (fetchSide_busByte (ra + 2#32) _)).trans
    (fetchSide_busByte (ra + 3#32) _)

theorem fetchSide_codeWords (e : Bool) (ra : Word) (n : Nat) (s : State) : FetchSide s (codeWords e ra n s).2 := by
  induction n generalizing ra s with
  | zero => exact .refl s
  | succ n ih => exact ((fetchSide_memWord ra s).trans (fetchSide_pickWord _ _ _)).trans (ih _ _)

theorem fetchSide_iVictim (i : BitVec 8) (s : State) : FetchSide s (iVictim i s).2 := by
  unfold iVictim
  simp only []
  split <;> rfl

theorem fetchSide_placeILine (i : BitVec 8) (w : Way) (l : ILine) (s : State) : FetchSide s (placeILine i w l s) := rfl

/-- A fill of the instruction cache. -/
theorem fetchSide_iFill (ea ra : Word) (e : Bool) (s : State) : FetchSide s (iFill ea ra e s) :=
  ((fetchSide_codeWords e (lineAlign ra) 8 s).trans (fetchSide_iVictim (classIndex ea) _)).trans (fetchSide_placeILine _ _ _ _)

theorem fetchSide_hitFetch (ea : Word) (x : Xlat) (w : Way) (s : State) : FetchSide s (hitFetch ea x w s).2 :=
  FetchSide.trans (t := s.setIClass (classIndex ea) ((s.iClass (classIndex ea)).touch w)) rfl (fetchSide_pickWord _ _ _)

theorem fetchSide_busFetchWord (x : Xlat) (s : State) : FetchSide s (busFetchWord x s).2 :=
  (FetchSide.trans (t := { s with busFetch := true }) rfl (fetchSide_memWord _ _)).trans (fetchSide_pickWord _ _ _)

/-- Translating a fetch draws free values only. -/
theorem fetchSide_fetchCheck (ea : Word) (s : State) : (fetchCheck ea s).leaves (FetchSide s) := by
  have h : FetchSide s (s.searchTlb s.itlbOld ea).2 := .of_draws (searchTlb_light _ _ _)
  unfold fetchCheck
  split
  · split
    · rename_i e; rw [e] at h; exact h
    · trivial
    · rename_i e; rw [e] at h; exact leaves_usePage _ _ _ _ h
  · exact .refl s

/-- A fetch whose outcomes all leave states that `P` holds of. -/
def Fetched.leaves (P : State → Prop) : Fetched → Prop
  | .word _ t => P t
  | .exc _ t => P t
  | .busError t => P t
  | .fault _ => True

theorem fetchSide_iInvalidate (i : BitVec 8) (w : Way) (s : State) : FetchSide s (iInvalidate i w s) := rfl

/-- A fetch from a line of the instruction cache. -/
theorem fetchSide_fetchLine (ea : Word) (x : Xlat) (w : Way) {s t : State} (h : FetchSide s t) :
    (fetchLine ea x w t).leaves (FetchSide s) := by
  have hd := h.trans (fetchSide_drawBool t)
  unfold fetchLine
  split
  · simp only []
    split
    · exact hd.trans (fetchSide_iInvalidate _ _ _)
    · exact hd.trans (fetchSide_hitFetch _ _ _ _)
  · exact h.trans (fetchSide_hitFetch _ _ _ _)

/-- A fetch changes the instruction side only. -/
theorem fetchSide_fetch (ea : Word) (s : State) : (fetch ea s).leaves (FetchSide s) := by
  have hc := fetchSide_fetchCheck ea s
  unfold fetch
  cases hf : fetchCheck ea s with
  | fault f => trivial
  | exc e t => rw [hf] at hc; exact hc
  | ok x t =>
    rw [hf] at hc
    have hc : FetchSide s t := hc
    simp only []
    split
    · exact hc
    · split
      · split
        · trivial
        · exact fetchSide_fetchLine _ _ _ hc
      · split
        · trivial
        · split
          · exact hc
          · split
            · exact hc.trans (fetchSide_busFetchWord _ _)
            · have hi : FetchSide s (iFill ea x.ra x.attr.e { t with busFetch := true }) :=
                (hc.trans (u := { t with busFetch := true }) rfl).trans (fetchSide_iFill _ _ _ _)
              generalize iFill ea x.ra x.attr.e { t with busFetch := true } = u at *
              split
              · exact fetchSide_fetchLine _ _ _ hi
              · exact hi

/-! ### Fetching ahead -/

theorem fetchSide_aheadBranch (bo bi : BitVec 5) (pending : Bool) (target : Word) (a : Ahead) (s : State) :
    FetchSide s (aheadBranch bo bi pending target a s).2 := by
  unfold aheadBranch
  simp only []
  split <;> rfl

theorem fetchSide_aheadTarget (f : Flow) (a : Ahead) (s : State) : FetchSide s (aheadTarget f a s).2 := by
  cases f with
  | branch => exact fetchSide_aheadBranch _ _ _ _ _ _
  | _ => rfl

theorem fetchSide_aheadStep (w : Word) (a : Ahead) (s : State) : FetchSide s (a.step w s).2 := by
  have h := fetchSide_aheadTarget (flowAfter (decode w) a s) a s
  unfold Ahead.step
  simp only []
  split <;> (rename_i e; rw [e] at h; exact h)

theorem fetchSide_aheadStops (f : Fault) (s : State) : FetchSide s (aheadStops f s) := rfl

theorem fetchSide_aheadCheck (ea : Word) (s : State) : FetchSide s (aheadCheck ea s).2 := by
  have h : FetchSide s (s.searchTlb s.itlbOld ea).2 := .of_draws (searchTlb_light _ _ _)
  unfold aheadCheck
  simp only []
  split
  · split
    · rename_i p t e
      rw [e] at h
      split
      · exact h
      · unfold usePage
        simp only []
        split_ifs
        · exact h.trans (fetchSide_aheadStops _ _)
        · exact h.trans (fetchSide_aheadStops _ _)
        · exact h
    · rename_i e; rw [e] at h; exact h
    · rename_i e; rw [e] at h; exact h.trans (fetchSide_aheadStops _ _)
  · exact .refl s

theorem fetchSide_readAhead (ea : Word) (w : Way) (s : State) : FetchSide s (readAhead ea w s).2 := rfl

theorem fetchSide_aheadRead (x : Xlat) (permitted : Bool) (a : Ahead) (s : State) :
    FetchSide s (aheadRead x permitted a s).2 := by
  have hb : FetchSide s { s with busFetch := true } := rfl
  unfold aheadRead
  simp only []
  split
  · exact .refl s
  · split
    · exact .refl s
    · split
      · exact fetchSide_readAhead _ _ _
      · split
        · exact .refl s
        · split
          · have hm := hb.trans (fetchSide_memWord (wordAlign x.ra) { s with busFetch := true })
            generalize memWord (wordAlign x.ra) { s with busFetch := true } = r at *
            exact hm
          · have hi := hb.trans (fetchSide_iFill a.ea x.ra x.attr.e { s with busFetch := true })
            split
            · exact hi.trans (fetchSide_readAhead _ _ _)
            · exact hi

theorem fetchSide_aheadFetch (x : Xlat) (permitted : Bool) (units : Nat) (a : Ahead) (s : State) :
    FetchSide s (aheadFetch x permitted units a s).2 := by
  have h := fetchSide_aheadRead x permitted a s
  unfold aheadFetch
  split
  · exact .refl s
  · split
    · exact .refl s
    · split <;> (rename_i e; rw [e] at h; exact h)

/-- What a fetch ahead costs is taken from the units left, which it does not exceed (R171). -/
theorem aheadFetch_left {x : Xlat} {permitted : Bool} {units left : Nat} {a : Ahead} {w : Word} {s t : State}
    (h : aheadFetch x permitted units a s = (some (w, left), t)) :
    ∃ cost, s.aheadCost x (s.iHit a.ea x.ra).isSome = some cost ∧ left + cost = units ∧
      aheadRead x permitted a s = (some w, t) := by
  unfold aheadFetch at h
  split at h
  · cases h
  · rename_i cost hc
    split at h
    · cases h
    · split at h
      · cases h
      · rename_i e
        cases h
        exact ⟨cost, hc, by omega, e⟩

theorem fetchSide_prefetchAt (units : Nat) (a : Ahead) (s : State) : FetchSide s (prefetchAt units a s).2 := by
  have hc := (fetchSide_drawBool s).trans (fetchSide_aheadCheck a.ea (drawBool s).2)
  unfold prefetchAt
  simp only []
  split
  · split
    · rename_i e; rw [e] at hc; exact hc
    · rename_i e; rw [e] at hc; exact hc.trans (fetchSide_aheadFetch _ _ _ _ _)
  · exact fetchSide_drawBool s

theorem fetchSide_prefetchPath (n units : Nat) (a : Ahead) (s : State) : FetchSide s (prefetchPath n units a s) := by
  induction n generalizing units a s with
  | zero => exact .refl s
  | succ n ih =>
    have h1 := fetchSide_prefetchAt units a s
    simp only [prefetchPath]
    split
    · rename_i e; rw [e] at h1; exact h1
    · rename_i w left t e
      rw [e] at h1
      have h2 := h1.trans (fetchSide_aheadStep w a t)
      split
      · rename_i e2; rw [e2] at h2; exact h2
      · rename_i e2; rw [e2] at h2; exact h2.trans (ih _ _ _)

theorem fetchSide_wordAtPc (s : State) : FetchSide s (wordAtPc s).2 := by
  have hc := fetchSide_aheadCheck s.pc s
  unfold wordAtPc
  split
  · rename_i e; rw [e] at hc; exact hc
  · rename_i x permitted t e
    rw [e] at hc
    split
    · exact hc
    · split
      · exact hc
      · split
        · exact hc
        · split
          · exact hc
          · have hm := hc.trans (fetchSide_memWord (wordAlign x.ra) t)
            generalize memWord (wordAlign x.ra) t = r at *
            exact hm

/-- Fetching ahead changes the instruction side only. -/
theorem fetchSide_prefetch (s : State) : FetchSide s (prefetch s) := by
  unfold prefetch
  split
  · have h1 := (fetchSide_prefetchAt 10 (.start s.pc) s).trans (fetchSide_wordAtPc _)
    simp only []
    split
    · rename_i e; rw [e] at h1; exact h1
    · rename_i w t e
      rw [e] at h1
      have h2 := h1.trans (fetchSide_aheadStep w (.start s.pc) t)
      split
      · rename_i e2; rw [e2] at h2; exact h2
      · rename_i e2; rw [e2] at h2; exact h2.trans (fetchSide_prefetchPath _ _ _ _)
  · exact .refl s

theorem kept_count (c : Clock) (s : State) : Kept s (c.count s).2 := by
  cases c
  · exact .refl s
  · exact .of_eq (sameParts_refl s) rfl

theorem kept_beginStep (s : State) : Kept s (beginStep s) := .of_eq (sameParts_refl s) rfl

theorem kept_begun (s : State) : Kept s s.begun :=
  ((kept_count s.env.clock s).trans (kept_ticks _ _)).trans
    ((kept_beginStep _).trans (fetchSide_prefetch _).kept)

end Sys2Proof.Machine
end

