-- ==== Sys2Proof/Laws/Multiple.lean ====
section
/-! SUPPORT. Laws/Multiple.lean: scalars as numbers in memory, and what multiples and strings do in calm states and plain
storage: their bytes, and the registers they write. -/

namespace Sys2Proof.Machine

/-! ### Bytes and numbers -/

/-- Bytes in register order make the word of their big-endian number. -/
theorem ofBytes_eq (bs : List Byte) : ofBytes bs = BitVec.ofNat 32 (bigEndian bs) := by
  induction bs using List.reverseRecOn with
  | nil => rfl
  | append_singleton bs b ih =>
    simp only [ofBytes, bigEndian, List.foldl_append, List.foldl_cons, List.foldl_nil] at *
    rw [ih]
    apply BitVec.eq_of_toNat_eq
    have hb := b.isLt
    rw [← BitVec.add_eq_or_of_and_eq_zero]
    · simp only [BitVec.toNat_add, BitVec.toNat_shiftLeft, BitVec.toNat_ofNat, BitVec.toNat_setWidth, Nat.shiftLeft_eq]
      omega
    · ext i hi
      simp only [BitVec.getElem_and, BitVec.getElem_shiftLeft, BitVec.getElem_zero, BitVec.getElem_setWidth]
      by_cases h : i < 8
      · simp [h]
      · simp [BitVec.getLsbD_of_ge b i (by omega)]

/-- The bytes of plain storage are those of memory. -/
theorem dataBytes_plain {s : State} {little ea n} (hp : s.plain little ea n) : s.dataBytes ea n = s.mem.readBytes ea n := by
  apply List.ext_getElem
  · simp [State.dataBytes]
  · intro k h1 h2
    have : k < n := by simpa [State.dataBytes] using h1
    simp only [State.dataBytes, List.getElem_map, List.getElem_range, getElem_readBytes]
    simp [State.dataByte, hp.absent k this]

/-- A scalar load from plain storage gives the number in memory. -/
theorem loadScalar_number {s : State} {little : Bool} (h : s.calmData) {ea : Word} {n : Nat} (hn : 0 < n) (rD : Reg)
    (hp : s.plain little ea n) (hb : s.blocksAnswer ea n) (f : Word → Word) :
    ∃ t, loadScalar rD ea n none f s = .ok (f (BitVec.ofNat 32 (s.number little ea n))) t ∧
      t = { s with dfb := t.dfb, synced := false } := by
  obtain ⟨t, ht, h2⟩ := loadScalar_plain h hn hp hb rD f
  refine ⟨t, ?_, h2⟩
  simp only [ht, ofBytes_eq, State.number, dataBytes_plain hp]

/-! ### Registers of a multiple or a string -/

theorem writeRegs_frame (rA last : Reg) (r : Reg) (vs : List Word) (s : State) : writeRegs rA last r vs s = { s with gpr := (writeRegs rA last r vs s).gpr } := by
  induction vs generalizing r s with
  | nil => rfl
  | cons v vs ih =>
    simp only [writeRegs]
    rw [ih]
    split <;> rfl

/-- Words of which none received a bus error go to the registers as they are. -/
@[simp] theorem putWords_nil (rA last rD : Reg) (ws : List Word) (s : State) :
    putWords rA last rD [] ws s = writeRegs rA last rD ws s := by simp [putWords]

/-- What a multiple or a string loads changes registers only, and the counter of free values. -/
theorem putWords_frame (rA last rD : Reg) (failed : List Nat) (ws : List Word) (s : State) :
    putWords rA last rD failed ws s =
      { s with gpr := (putWords rA last rD failed ws s).gpr, draws := (putWords rA last rD failed ws s).draws } := by
  unfold putWords
  simp only []
  rw [writeRegs_frame]
  conv_lhs => rw [freeFailed_light]
  rw [freeFailed_light]

/-- Words loaded into consecutive registers: register `q` gets the word at its distance from `r`, unless it is rA and not the
last. -/
theorem writeRegs_reg (rA last : Reg) (r : Reg) (vs : List Word) (s : State) (hl : vs.length ≤ 32) (q : Reg) :
    (writeRegs rA last r vs s).reg q = if (q ≠ rA ∨ q = last) then vs.getD (q - r).toNat (s.reg q) else s.reg q := by
  induction vs generalizing r s with
  | nil => simp [writeRegs]
  | cons v vs ih =>
    simp only [writeRegs, List.length_cons] at *
    rw [ih _ _ (by omega)]
    by_cases e : q = r
    · subst e
      have : (q - (q + 1#5)).toNat = 31 := by
        rw [show q - (q + 1#5) = -1#5 by ring]; rfl
      rw [this, List.getD_eq_getElem?_getD, List.getElem?_eq_none (by omega)]
      by_cases hq : q ≠ rA ∨ q = last
      · simp [hq]
      · simp [hq]
    · have h1 : (q - r).toNat = (q - (r + 1#5)).toNat + 1 := by
        have : q.toNat ≠ r.toNat := fun h => e (BitVec.eq_of_toNat_eq h)
        have := q.isLt; have := r.isLt
        simp only [BitVec.toNat_sub, BitVec.toNat_add, BitVec.toNat_ofNat]
        omega
      have h2 : (if r ≠ rA ∨ r = last then s.setReg r v else s).reg q = s.reg q := by
        split
        · exact reg_setReg_ne _ _ e
        · rfl
      rw [h1, h2]; simp [List.getD_eq_getElem?_getD]

/-! ### Whole multiples and strings -/

/-- A load multiple from plain storage: the numbers of its words. -/
theorem loadMultiple_plain {s : State} {little : Bool} (h : s.calmData) {ea : Word} {n : Nat} (hp : s.plain little ea (4 * n))
    (hw : s.wordsAnswer ea (4 * n)) (hb : s.blocksAnswer ea (4 * n)) (put : Loaded → State → State) :
    ∃ t vs, loadOperand (multiple ea n) none put s = .ok { values := vs, failed := [] } t ∧
      t = { s with dfb := t.dfb, synced := false } ∧
      vs.map ofBytes = (List.range n).map fun j => BitVec.ofNat 32 (s.number little (ea + BitVec.ofNat 32 (4 * j)) 4) := by
  obtain ⟨t, ht, ht2⟩ := loadOperand_plain h (o := multiple ea n) hp (fun _ => hw) hb put
  refine ⟨t, _, ht, ht2, ?_⟩
  have hlen := (pieces_spec ((multiple ea n).unit == 0) (4 * n + 1) ea (4 * n) (by omega) hp).2.1
  have hv := valuesOf_uniform (l := little) (n := 4) (k := n) (j := (multiple ea n).parts.length) (by decide)
    (by simp only [Operand.parts, multiple] at *; omega) (s.mem.readBytes ea (4 * n)) (by simp)
  have hu : ¬ (multiple ea n).unit = 0 := by simp [multiple]
  simp only [Operand.values, hu, if_false]
  rw [show (multiple ea n).unit = 4 from rfl, show (multiple ea n).ea = ea from rfl, show (multiple ea n).size = 4 * n from rfl, hv,
    List.map_map]
  apply List.map_congr_left
  intro j hj
  have hjn : j < n := by simpa using hj
  have hsub := plain_sub hp (4 * j) 4 (by omega)
  have hb : ((s.mem.readBytes ea (4 * n)).drop (4 * j)).take 4 = s.mem.readBytes (ea + BitVec.ofNat 32 (4 * j)) 4 := by
    have h1 := Memory.readBytes_append s.mem ea (4 * j) (4 * n - 4 * j)
    have h2 := Memory.readBytes_append s.mem (ea + BitVec.ofNat 32 (4 * j)) 4 (4 * n - 4 * j - 4)
    rw [show 4 * j + (4 * n - 4 * j) = 4 * n by omega] at h1
    rw [show 4 + (4 * n - 4 * j - 4) = 4 * n - 4 * j by omega] at h2
    rw [h1, List.drop_left' (by simp), h2, List.take_left' (by simp)]
  simp only [Function.comp, hb, State.number, dataBytes_plain hsub]
  cases little <;> simp [ofBytes_eq]

/-- A store multiple to plain storage: the bytes of its words. -/
theorem storeMultiple_plain {s : State} {little : Bool} (h : s.calmData) {ea : Word} (ws : List Word)
    (hp : s.plain little ea (4 * ws.length)) :
    ∃ t, storeOperand (multiple ea ws.length) none (ws.map (bytesOf 4)) s = .ok () t ∧
      s.stored (s.mem.writeBytes ea (ws.map fun w => if little then (bytesOf 4 w).reverse else bytesOf 4 w).flatten) t := by
  have hlen := (pieces_spec ((multiple ea ws.length).unit == 0) (4 * ws.length + 1) ea (4 * ws.length) (by omega) hp).2.1
  have hu : ¬ (multiple ea ws.length).unit = 0 := by simp [multiple]
  have e : (multiple ea ws.length).bytes (List.replicate (multiple ea ws.length).parts.length little) (ws.map (bytesOf 4)) =
      (ws.map fun w => if little then (bytesOf 4 w).reverse else bytesOf 4 w).flatten := by
    unfold Operand.bytes
    rw [if_neg hu, memoryOrder_uniform _ (by simp only [Operand.parts, multiple, List.length_map] at *; omega), List.map_map]
    rfl
  have hl : ∀ l : List Word, (l.map fun w => if little then (bytesOf 4 w).reverse else bytesOf 4 w).flatten.length = 4 * l.length := by
    intro l
    induction l with
    | nil => rfl
    | cons w l ih =>
      simp only [List.map_cons, List.flatten_cons, List.length_append, ih, List.length_cons]
      have : (if little then (bytesOf 4 w).reverse else bytesOf 4 w).length = 4 := by cases little <;> rfl
      omega
  have := storeOperand_plain h (o := multiple ea ws.length) hp (ws.map (bytesOf 4)) (by rw [e, hl]; rfl)
  rw [e] at this
  exact this

/-- A string load from plain storage: its bytes in the order of memory. -/
theorem loadString_plain {s : State} {little : Bool} (h : s.calmData) {ea : Word} {n : Nat} (hp : s.plain little ea n)
    (hw : s.wordsAnswer ea n) (hb : s.blocksAnswer ea n) (put : Loaded → State → State) :
    ∃ t, loadOperand (string ea n) none put s = .ok { values := [s.mem.readBytes ea n], failed := [] } t ∧
      t = { s with dfb := t.dfb, synced := false } := by
  obtain ⟨t, ht, ht2⟩ := loadOperand_plain h (o := string ea n) hp (fun _ => hw) hb put
  refine ⟨t, ?_, ht2⟩
  rw [ht]
  simp [Operand.values, string]

/-- A string store to plain storage: its bytes in the order of memory. -/
theorem storeString_plain {s : State} {little : Bool} (h : s.calmData) {ea : Word} (bs : List Byte)
    (hp : s.plain little ea bs.length) :
    ∃ t, storeOperand (string ea bs.length) none [bs] s = .ok () t ∧ s.stored (s.mem.writeBytes ea bs) t := by
  have e : ∀ l, (string ea bs.length).bytes l [bs] = bs := fun l => by simp [Operand.bytes, string]
  have := storeOperand_plain h (o := string ea bs.length) hp [bs] (by rw [e]; rfl)
  rw [e] at this
  exact this

@[simp] theorem length_wordsOf (bs : List Byte) : (wordsOf bs).length = (bs.length + 3) / 4 := by
  match bs with
  | [] => rfl
  | [_] => simp [wordsOf]
  | [_, _] => simp [wordsOf]
  | [_, _, _] => simp [wordsOf]
  | _ :: _ :: _ :: _ :: r =>
    simp only [wordsOf, List.length_cons, length_wordsOf r]
    omega

/-- Four bytes side by side make the word of their big-endian number. -/
theorem append_four (a b c d : Byte) : a ++ b ++ c ++ d = BitVec.ofNat 32 (bigEndian [a, b, c, d]) := by
  apply BitVec.eq_of_toNat_eq
  have := a.isLt; have := b.isLt; have := c.isLt; have := d.isLt
  simp only [BitVec.toNat_append, BitVec.toNat_ofNat, bigEndian, List.foldl_cons, List.foldl_nil]
  have key : ∀ x : Nat, ∀ y : Byte, (x <<< 8) ||| y.toNat = 256 * x + y.toNat := by
    intro x y
    rw [← Nat.shiftLeft_add_eq_or_of_lt y.isLt, Nat.shiftLeft_eq]; omega
  rw [key, key, key]
  omega

/-- Word `j` of a string: its bytes, filled up with zeros. -/
theorem getD_wordsOf (bs : List Byte) (j : Nat) (h : 4 * j < bs.length) (w : Word) :
    (wordsOf bs).getD j w = BitVec.ofNat 32 (bigEndian ((List.range 4).map fun k => bs.getD (4 * j + k) 0#8)) := by
  match bs, j with
  | [], j => simp at h
  | [a], 0 =>
    have e : a ++ 0#24 = a ++ 0#8 ++ 0#8 ++ 0#8 := by
      apply BitVec.eq_of_toNat_eq
      simp only [BitVec.toNat_append, BitVec.toNat_ofNat, Nat.zero_mod, Nat.or_zero, ← Nat.shiftLeft_add]
    exact e.trans (append_four a 0#8 0#8 0#8)
  | [a, b], 0 =>
    have e : a ++ b ++ 0#16 = a ++ b ++ 0#8 ++ 0#8 := by
      apply BitVec.eq_of_toNat_eq
      simp only [BitVec.toNat_append, BitVec.toNat_ofNat, Nat.zero_mod, Nat.or_zero, ← Nat.shiftLeft_add, Nat.shiftLeft_or_distrib]
    exact e.trans (append_four a b 0#8 0#8)
  | [a, b, c], 0 => exact append_four a b c 0#8
  | [_], j + 1 => exact absurd h (by simp; try omega)
  | [_, _], j + 1 => exact absurd h (by simp; try omega)
  | [_, _, _], j + 1 => exact absurd h (by simp; try omega)
  | a :: b :: c :: d :: r, 0 => exact append_four a b c d
  | a :: b :: c :: d :: r, j + 1 =>
    simp only [List.length_cons] at h
    have := getD_wordsOf r j (by omega) w
    exact this

end Sys2Proof.Machine
end

