-- ==== Sys2Proof/Tests/Slice0.lean ====
section
/-! SUPPORT. Tests/Slice0.lean: well-formedness, decoding of the spec's example words, one instruction on the spec's vectors, a few
steps, and for every statement that has hypotheses a witness that meets them. Expected values are the spec's. -/

namespace Sys2Proof.Tests

open Machine

/-! ### Helpers -/

/-- The words of a list decode to the instructions beside them. -/
def reads (rows : List (Word × Instr)) : Bool := rows.all fun p => decode p.1 == .ok p.2

/-- A piece of a state: a register, a word of memory, the reservation. -/
inductive Item where
  | r (n : Reg) (v : Word)
  | m (a v : Word)
  | cr (v : Word)
  | cr0 (v : BitVec 4)
  | xer (v : Word)
  | lr (v : Word)
  | ctr (v : Word)
  | msr (v : Word)
  | pc (v : Word)
  | srr0 (v : Word)
  | srr1 (v : Word)
  | srr2 (v : Word)
  | srr3 (v : Word)
  | esr (v : Word)
  | dear (v : Word)
  | evpr (v : Word)
  | reserve (b : Bool)

/-- The state with a piece set. -/
def Item.put (s : State) : Item → State
  | .r n v => s.setReg n v
  | .m a v => { s with mem := s.mem.writeBytes a (bytesOf 4 v) }
  | .cr v => { s with cr := v }
  | .cr0 v => s.setCrField 0#3 v
  | .xer v => { s with xer := v }
  | .lr v => { s with lr := v }
  | .ctr v => { s with ctr := v }
  | .msr v => { s with msr := v }
  | .pc v => { s with pc := v }
  | .srr0 v => { s with spr := { s.spr with srr0 := v } }
  | .srr1 v => { s with spr := { s.spr with srr1 := v } }
  | .srr2 v => { s with spr := { s.spr with srr2 := v } }
  | .srr3 v => { s with spr := { s.spr with srr3 := v } }
  | .esr v => { s with spr := { s.spr with esr := v } }
  | .dear v => { s with spr := { s.spr with dear := v } }
  | .evpr v => { s with spr := { s.spr with evpr := v } }
  | .reserve b => { s with reserve := b }

/-- Whether a state has a piece. -/
def Item.holds (s : State) : Item → Bool
  | .r n v => s.reg n == v
  | .m a v => s.mem.readWord a == v
  | .cr v => s.cr == v
  | .cr0 v => s.cr.extractLsb' 28 4 == v
  | .xer v => s.xer == v
  | .lr v => s.lr == v
  | .ctr v => s.ctr == v
  | .msr v => s.msr == v
  | .pc v => s.pc == v
  | .srr0 v => s.spr.srr0 == v
  | .srr1 v => s.spr.srr1 == v
  | .srr2 v => s.spr.srr2 == v
  | .srr3 v => s.spr.srr3 == v
  | .esr v => s.spr.esr == v
  | .dear v => s.spr.dear == v
  | .evpr v => s.spr.evpr == v
  | .reserve b => s.reserve == b

/-- The start of the spec's vectors: the state after reset with the instruction at 0x1000, and the UTLB initialized. -/
def start : State := { State.reset with pc := 0x1000#32, tlbReady := ~~~0#64 }

/-- The start with pieces set. -/
def given (items : List Item) : State := items.foldl Item.put start

/-- An outcome is a next state with some pieces. -/
def gives (o : Out) (items : List Item) : Bool :=
  match o with
  | .next t => items.all (Item.holds t)
  | .fault _ => false
  | .refused _ => false

/-- Each instruction, from the start with the first pieces, gives a state with the second. -/
def runs (rows : List (Instr × List Item × List Item)) : Bool := rows.all fun p => gives (exec p.1 (given p.2.1)) p.2.2

/-- Pieces beside the bytes that the load vectors find at 0x2000. -/
def atBytes (items : List Item) : List Item :=
  [.m 0x2000#32 0x00112233#32, .m 0x2004#32 0x44556677#32, .m 0x2008#32 0x8899AABB#32, .m 0x200C#32 0xCCDDEEFF#32,
   .m 0x2010#32 0x10213243#32, .m 0x2014#32 0x54657687#32] ++ items

/-! ### Well-formedness: each check refuses an ill-formed term -/

/-- Update forms with rA = 0 or rA = rD (U21). -/
theorem test_wellFormed_update :
    Instr.wellFormed (.lbzu 3#5 0#5 2#16) = false ∧ Instr.wellFormed (.lwzux 3#5 3#5 4#5) = false ∧
      Instr.wellFormed (.lbzu 3#5 4#5 2#16) = true ∧ Instr.wellFormed (.stwu 1#5 0#5 2#16) = false ∧
      Instr.wellFormed (.stwu 1#5 1#5 2#16) = true := by decide

/-- `lmw` and `lswi` with rA among the registers loaded (U22); the registers of `lswi` wrap from r31 to r0. -/
theorem test_wellFormed_multiple :
    Instr.wellFormed (.lmw 29#5 30#5 0#16) = false ∧ Instr.wellFormed (.lmw 29#5 28#5 0#16) = true ∧
      Instr.wellFormed (.lswi 31#5 0#5 5#5) = false ∧ Instr.wellFormed (.lswi 31#5 1#5 5#5) = true ∧
      Instr.wellFormed (.lswi 28#5 3#5 0#5) = false ∧ Instr.wellFormed (.lswi 5#5 3#5 0#5) = true := by decide

/-- `bcctr` with BO[2] = 0 (U23), numbers of special registers (U24), WS over 1 (U25). -/
theorem test_wellFormed_fields :
    Instr.wellFormed (.bcctr 16#5 0#5 false) = false ∧ Instr.wellFormed (.bcctr 20#5 0#5 false) = true ∧
      Instr.wellFormed (.mfspr 3#5 2#10) = false ∧ Instr.wellFormed (.mfspr 3#5 284#10) = false ∧
      Instr.wellFormed (.mtspr 287#10 3#5) = false ∧ Instr.wellFormed (.mtspr 284#10 3#5) = true ∧
      Instr.wellFormed (.mftb 3#5 270#10) = false ∧ Instr.wellFormed (.tlbwe 3#5 4#5 2#5) = false ∧
      Instr.wellFormed (.tlbre 3#5 4#5 31#5) = false ∧ Instr.wellFormed (.tlbre 3#5 4#5 1#5) = true := by decide

/-! ### Decoding: the spec's example words of every instruction -/

/-- Words of 40_branch_cr_system.md, 96_test_vectors_derived.md B1 to B3. -/
theorem test_decode_branches : reads [
    (0x4BFFFF00#32, .b 16777152#24 false false), (0x48000103#32, .b 64#24 true true),
    (0x408EFFF0#32, .bc 4#5 14#5 16380#14 false false), (0x42800203#32, .bc 20#5 0#5 128#14 true true),
    (0x4E800420#32, .bcctr 20#5 0#5 false), (0x4E800421#32, .bcctr 20#5 0#5 true), (0x4E800020#32, .bclr 20#5 0#5 false),
    (0x4E800021#32, .bclr 20#5 0#5 true), (0x4FE12202#32, .crand 31#5 1#5 4#5), (0x4FE12102#32, .crandc 31#5 1#5 4#5),
    (0x4FE12242#32, .creqv 31#5 1#5 4#5), (0x4FE121C2#32, .crnand 31#5 1#5 4#5), (0x4FE12042#32, .crnor 31#5 1#5 4#5),
    (0x4FE12382#32, .cror 31#5 1#5 4#5), (0x4FE12342#32, .crorc 31#5 1#5 4#5), (0x4FE12182#32, .crxor 31#5 1#5 4#5),
    (0x4C9C0000#32, .mcrf 1#3 7#3), (0x4C000066#32, .rfci), (0x4C000064#32, .rfi), (0x44000002#32, .sc),
    (0x7E032008#32, .tw 16#5 3#5 4#5), (0x0E03FFFF#32, .twi 16#5 3#5 65535#16)] = true := by decide +kernel

/-- Words of 41_load_store.md, 96_test_vectors_derived.md B4. -/
theorem test_decode_loadsAndStores : reads [
    (0x88A3FFFF#32, .lbz 5#5 3#5 65535#16), (0x8C640002#32, .lbzu 3#5 4#5 2#16), (0x7C6428EE#32, .lbzux 3#5 4#5 5#5),
    (0x7C6428AE#32, .lbzx 3#5 4#5 5#5), (0xA8640002#32, .lha 3#5 4#5 2#16), (0xACA3000A#32, .lhau 5#5 3#5 10#16),
    (0x7C642AEE#32, .lhaux 3#5 4#5 5#5), (0x7C642AAE#32, .lhax 3#5 4#5 5#5), (0x7C642E2C#32, .lhbrx 3#5 4#5 5#5),
    (0xA0640002#32, .lhz 3#5 4#5 2#16), (0xA4640002#32, .lhzu 3#5 4#5 2#16), (0x7C642A6E#32, .lhzux 3#5 4#5 5#5),
    (0x7C642A2E#32, .lhzx 3#5 4#5 5#5), (0xBBBE0000#32, .lmw 29#5 30#5 0#16), (0x7FE33CAA#32, .lswi 31#5 3#5 7#5),
    (0x7FC42C2A#32, .lswx 30#5 4#5 5#5), (0x7C602028#32, .lwarx 3#5 0#5 4#5), (0x7C642C2C#32, .lwbrx 3#5 4#5 5#5),
    (0x80A32001#32, .lwz 5#5 3#5 8193#16), (0x84A3FFFC#32, .lwzu 5#5 3#5 65532#16), (0x7C64286E#32, .lwzux 3#5 4#5 5#5),
    (0x7C64282E#32, .lwzx 3#5 4#5 5#5), (0x98640002#32, .stb 3#5 4#5 2#16), (0x9C640002#32, .stbu 3#5 4#5 2#16),
    (0x7C6429EE#32, .stbux 3#5 4#5 5#5), (0x7C6429AE#32, .stbx 3#5 4#5 5#5), (0xB0640002#32, .sth 3#5 4#5 2#16),
    (0x7C642F2C#32, .sthbrx 3#5 4#5 5#5), (0xB4640002#32, .sthu 3#5 4#5 2#16), (0x7C642B6E#32, .sthux 3#5 4#5 5#5),
    (0x7C642B2E#32, .sthx 3#5 4#5 5#5), (0xBFC1FFF8#32, .stmw 30#5 1#5 65528#16), (0x7FE335AA#32, .stswi 31#5 3#5 6#5),
    (0x7FE42D2A#32, .stswx 31#5 4#5 5#5), (0x90640002#32, .stw 3#5 4#5 2#16), (0x7C642D2C#32, .stwbrx 3#5 4#5 5#5),
    (0x7C60212D#32, .stwcx 3#5 0#5 4#5), (0x9421FFF0#32, .stwu 1#5 1#5 65520#16), (0x7C64296E#32, .stwux 3#5 4#5 5#5),
    (0x7C64292E#32, .stwx 3#5 4#5 5#5)] = true := by decide +kernel

/-- Words of 42_integer_arith.md, 96_test_vectors_derived.md B5. -/
theorem test_decode_integerArithmetic : reads [
    (0x7C642A14#32, .add 3#5 4#5 5#5 false false), (0x7C642E15#32, .add 3#5 4#5 5#5 true true),
    (0x7D062014#32, .addc 8#5 6#5 4#5 false false), (0x7CE51914#32, .adde 7#5 5#5 3#5 false false),
    (0x7C642D15#32, .adde 3#5 4#5 5#5 true true), (0x3864FFFF#32, .addi 3#5 4#5 65535#16),
    (0x3064FFFF#32, .addic 3#5 4#5 65535#16), (0x3464FFFF#32, .addicDot 3#5 4#5 65535#16),
    (0x3C648000#32, .addis 3#5 4#5 32768#16), (0x7C6401D4#32, .addme 3#5 4#5 false false),
    (0x7C640194#32, .addze 3#5 4#5 false false), (0x7C642BD6#32, .divw 3#5 4#5 5#5 false false),
    (0x7C642B96#32, .divwu 3#5 4#5 5#5 false false), (0x7C642896#32, .mulhw 3#5 4#5 5#5 false),
    (0x7C642897#32, .mulhw 3#5 4#5 5#5 true), (0x7C642816#32, .mulhwu 3#5 4#5 5#5 false),
    (0x7C642817#32, .mulhwu 3#5 4#5 5#5 true), (0x1C64FFFD#32, .mulli 3#5 4#5 65533#16),
    (0x7C6429D6#32, .mullw 3#5 4#5 5#5 false false), (0x7C642DD7#32, .mullw 3#5 4#5 5#5 true true),
    (0x7C6400D0#32, .neg 3#5 4#5 false false), (0x7C6404D1#32, .neg 3#5 4#5 true true),
    (0x7C642850#32, .subf 3#5 4#5 5#5 false false), (0x7D062010#32, .subfc 8#5 6#5 4#5 false false),
    (0x7CE51910#32, .subfe 7#5 5#5 3#5 false false), (0x2064FFFF#32, .subfic 3#5 4#5 65535#16),
    (0x7C6401D0#32, .subfme 3#5 4#5 false false), (0x7C640190#32, .subfze 3#5 4#5 false false)] = true := by decide +kernel

/-- Words of 43_logical_compare_rotate_shift.md, 96_test_vectors_derived.md B6. -/
theorem test_decode_logical : reads [
    (0x7C832838#32, .and 3#5 4#5 5#5 false), (0x7C832839#32, .and 3#5 4#5 5#5 true),
    (0x7C832878#32, .andc 3#5 4#5 5#5 false), (0x7083FF00#32, .andiDot 3#5 4#5 65280#16),
    (0x7483FF00#32, .andisDot 3#5 4#5 65280#16), (0x7C032000#32, .cmp 0#3 3#5 4#5), (0x2D03FFFF#32, .cmpi 2#3 3#5 65535#16),
    (0x7C832040#32, .cmpl 1#3 3#5 4#5), (0x2803FFFF#32, .cmpli 0#3 3#5 65535#16), (0x7C830034#32, .cntlzw 3#5 4#5 false),
    (0x7C830035#32, .cntlzw 3#5 4#5 true), (0x7C832A38#32, .eqv 3#5 4#5 5#5 false), (0x7C830774#32, .extsb 3#5 4#5 false),
    (0x7C830775#32, .extsb 3#5 4#5 true), (0x7C830734#32, .extsh 3#5 4#5 false), (0x7C832BB8#32, .nand 3#5 4#5 5#5 false),
    (0x7C8328F8#32, .nor 3#5 4#5 5#5 false), (0x7C8320F9#32, .nor 3#5 4#5 4#5 true), (0x7C832B78#32, .or 3#5 4#5 5#5 false),
    (0x7C832B38#32, .orc 3#5 4#5 5#5 false), (0x6083FF00#32, .ori 3#5 4#5 65280#16), (0x6483FF00#32, .oris 3#5 4#5 65280#16),
    (0x5083842E#32, .rlwimi 3#5 4#5 16#5 16#5 23#5 false), (0x5083801F#32, .rlwimi 3#5 4#5 16#5 0#5 15#5 true),
    (0x5483842E#32, .rlwinm 3#5 4#5 16#5 16#5 23#5 false), (0x54830707#32, .rlwinm 3#5 4#5 0#5 28#5 3#5 true),
    (0x5C832E3E#32, .rlwnm 3#5 4#5 5#5 24#5 31#5 false), (0x5C832801#32, .rlwnm 3#5 4#5 5#5 0#5 0#5 true),
    (0x7C832830#32, .slw 3#5 4#5 5#5 false), (0x7C832831#32, .slw 3#5 4#5 5#5 true),
    (0x7C832E30#32, .sraw 3#5 4#5 5#5 false), (0x7C832E31#32, .sraw 3#5 4#5 5#5 true),
    (0x7C83FE70#32, .srawi 3#5 4#5 31#5 false), (0x7C838671#32, .srawi 3#5 4#5 16#5 true),
    (0x7C832C30#32, .srw 3#5 4#5 5#5 false), (0x7C832C31#32, .srw 3#5 4#5 5#5 true), (0x7C832A78#32, .xor 3#5 4#5 5#5 false),
    (0x7C832279#32, .xor 3#5 4#5 4#5 true), (0x6883FF00#32, .xori 3#5 4#5 65280#16), (0x6C83FF00#32, .xoris 3#5 4#5 65280#16)] = true := by decide +kernel

/-- Words of 44_mac.md, 96_test_vectors_derived.md B7. -/
theorem test_decode_multiplyAccumulate : reads [
    (0x10642958#32, .macchw 3#5 4#5 5#5 false false), (0x106429D8#32, .macchws 3#5 4#5 5#5 false false),
    (0x10642DD9#32, .macchws 3#5 4#5 5#5 true true), (0x10642998#32, .macchwsu 3#5 4#5 5#5 false false),
    (0x10642918#32, .macchwu 3#5 4#5 5#5 false false), (0x10642858#32, .machhw 3#5 4#5 5#5 false false),
    (0x10642C59#32, .machhw 3#5 4#5 5#5 true true), (0x106428D8#32, .machhws 3#5 4#5 5#5 false false),
    (0x10642898#32, .machhwsu 3#5 4#5 5#5 false false), (0x10642818#32, .machhwu 3#5 4#5 5#5 false false),
    (0x10642B58#32, .maclhw 3#5 4#5 5#5 false false), (0x10642BD8#32, .maclhws 3#5 4#5 5#5 false false),
    (0x10642B98#32, .maclhwsu 3#5 4#5 5#5 false false), (0x10642B18#32, .maclhwu 3#5 4#5 5#5 false false),
    (0x10642950#32, .mulchw 3#5 4#5 5#5 false), (0x10642951#32, .mulchw 3#5 4#5 5#5 true),
    (0x10642910#32, .mulchwu 3#5 4#5 5#5 false), (0x10642850#32, .mulhhw 3#5 4#5 5#5 false),
    (0x10642851#32, .mulhhw 3#5 4#5 5#5 true), (0x10642810#32, .mulhhwu 3#5 4#5 5#5 false),
    (0x10642B50#32, .mullhw 3#5 4#5 5#5 false), (0x10642B10#32, .mullhwu 3#5 4#5 5#5 false),
    (0x10642B11#32, .mullhwu 3#5 4#5 5#5 true), (0x1064295C#32, .nmacchw 3#5 4#5 5#5 false false),
    (0x106429DC#32, .nmacchws 3#5 4#5 5#5 false false), (0x1064285C#32, .nmachhw 3#5 4#5 5#5 false false),
    (0x106428DC#32, .nmachhws 3#5 4#5 5#5 false false), (0x10642CDD#32, .nmachhws 3#5 4#5 5#5 true true),
    (0x10642B5C#32, .nmaclhw 3#5 4#5 5#5 false false), (0x10642BDC#32, .nmaclhws 3#5 4#5 5#5 false false)] = true := by decide +kernel

/-- Words of 45_processor_control_sync.md, 96_test_vectors_derived.md B8. -/
theorem test_decode_processorControl : reads [
    (0x7C0006AC#32, .eieio), (0x4C00012C#32, .isync), (0x7C000400#32, .mcrxr 0#3), (0x7C600026#32, .mfcr 3#5),
    (0x7C634A86#32, .mfdcr 3#5 291#10), (0x7C6000A6#32, .mfmsr 3#5), (0x7C7FFAA6#32, .mfspr 3#5 1023#10),
    (0x7CCC42E6#32, .mftb 6#5 268#10), (0x7C664120#32, .mtcrf 100#8 3#5), (0x7C7FFB86#32, .mtdcr 1023#10 3#5),
    (0x7C600124#32, .mtmsr 3#5), (0x7C90FBA6#32, .mtspr 1008#10 4#5), (0x7C0004AC#32, .sync), (0x7C600106#32, .wrtee 3#5),
    (0x7C000146#32, .wrteei false)] = true := by decide +kernel

/-- Words of 46_cache_tlb.md, 97_test_vectors_machine.md B9. -/
theorem test_decode_cacheAndTlb : reads [
    (0x7C042DEC#32, .dcba 4#5 5#5), (0x7C0028AC#32, .dcbf 0#5 5#5), (0x7C042BAC#32, .dcbi 4#5 5#5),
    (0x7C04286C#32, .dcbst 4#5 5#5), (0x7C042A2C#32, .dcbt 4#5 5#5), (0x7C0429EC#32, .dcbtst 4#5 5#5),
    (0x7C042FEC#32, .dcbz 4#5 5#5), (0x7C042B8C#32, .dccci 4#5 5#5), (0x7C642BCC#32, .dcread 3#5 4#5 5#5),
    (0x7C002FAC#32, .icbi 0#5 5#5), (0x7C042A0C#32, .icbt 4#5 5#5), (0x7C042F8C#32, .iccci 4#5 5#5),
    (0x7C042FCC#32, .icread 4#5 5#5), (0x7C0002E4#32, .tlbia), (0x7C640764#32, .tlbre 3#5 4#5 0#5),
    (0x7C642F24#32, .tlbsx 3#5 4#5 5#5 false), (0x7C642F25#32, .tlbsx 3#5 4#5 5#5 true), (0x7C00046C#32, .tlbsync),
    (0x7C6407A4#32, .tlbwe 3#5 4#5 0#5)] = true := by decide +kernel

/-! ### One instruction, one step: the spec's vectors -/

/-- Vectors of 40_branch_cr_system.md, 96_test_vectors_derived.md B1 to B3. -/
theorem test_exec_branches : runs [
    (.b 1024#24 false true, [.lr 0xDEADBEEF#32], [.lr 0x1004#32, .pc 0x2000#32]),
    (.bc 8#5 2#5 4#14 false false, [.ctr 0x3#32, .cr 0x20000000#32], [.ctr 0x2#32, .pc 0x1010#32]),
    (.bcctr 20#5 0#5 true, [.ctr 0x3000#32], [.ctr 0x3000#32, .lr 0x1004#32, .pc 0x3000#32]),
    (.bclr 12#5 2#5 false, [.lr 0x2000#32, .cr 0x0#32], [.lr 0x2000#32, .pc 0x1004#32]),
    (.crand 31#5 1#5 4#5, [.cr 0x5A0000C2#32], [.cr 0x5A0000C3#32, .pc 0x1004#32]),
    (.crandc 31#5 1#5 4#5, [.cr 0x5A0000C2#32], [.cr 0x5A0000C2#32, .pc 0x1004#32]),
    (.creqv 31#5 1#5 4#5, [.cr 0x5A0000C2#32], [.cr 0x5A0000C3#32, .pc 0x1004#32]),
    (.crnand 31#5 1#5 4#5, [.cr 0x5A0000C2#32], [.cr 0x5A0000C2#32, .pc 0x1004#32]),
    (.crnor 31#5 1#5 4#5, [.cr 0x5A0000C2#32], [.cr 0x5A0000C2#32, .pc 0x1004#32]),
    (.cror 31#5 1#5 4#5, [.cr 0x5A0000C2#32], [.cr 0x5A0000C3#32, .pc 0x1004#32]),
    (.crorc 31#5 1#5 4#5, [.cr 0x5A0000C2#32], [.cr 0x5A0000C3#32, .pc 0x1004#32]),
    (.crxor 31#5 1#5 4#5, [.cr 0x5A0000C2#32], [.cr 0x5A0000C2#32, .pc 0x1004#32]),
    (.mcrf 0#3 7#3, [.cr 0x5A0000C3#32], [.cr 0x3A0000C3#32, .pc 0x1004#32]),
    (.rfci, [.srr2 0x5000#32, .srr3 0x8000#32, .srr0 0x4000#32, .srr1 0xC000#32, .msr 0x1000#32],
      [.msr 0x8000#32, .srr0 0x4000#32, .srr1 0xC000#32, .pc 0x5000#32]),
    (.rfi, [.srr0 0x4002#32, .srr1 0x2C230#32, .msr 0x1000#32],
      [.msr 0x2C230#32, .srr0 0x4002#32, .srr1 0x2C230#32, .pc 0x4000#32]),
    (.sc, [.msr 0x2D230#32, .evpr 0xFFF00000#32],
      [.srr0 0x1004#32, .srr1 0x2D230#32, .msr 0x21200#32, .esr 0x0#32, .lr 0x0#32, .pc 0xFFF00C00#32]),
    (.tw 4#5 3#5 4#5, [.r 3#5 0x5#32, .r 4#5 0x5#32, .msr 0x8000#32],
      [.srr0 0x1000#32, .srr1 0x8000#32, .esr 0x2000000#32, .msr 0x0#32, .pc 0x700#32]),
    (.twi 16#5 3#5 65535#16, [.r 3#5 0xFFFFFFFE#32], [.srr0 0x1000#32, .esr 0x2000000#32, .pc 0x700#32])] = true := by decide +kernel

/-- Vectors of 41_load_store.md, 96_test_vectors_derived.md B4. -/
theorem test_exec_loadsAndStores : runs [
    (.lbz 5#5 3#5 9#16, atBytes [.r 3#5 0x2000#32], [.r 5#5 0x99#32, .pc 0x1004#32]),
    (.lbzu 5#5 3#5 9#16, atBytes [.r 3#5 0x2000#32], [.r 5#5 0x99#32, .r 3#5 0x2009#32, .pc 0x1004#32]),
    (.lbzux 5#5 3#5 4#5, atBytes [.r 3#5 0x2000#32, .r 4#5 0xA#32], [.r 5#5 0xAA#32, .r 3#5 0x200A#32, .pc 0x1004#32]),
    (.lbzx 5#5 3#5 4#5, atBytes [.r 3#5 0x2000#32, .r 4#5 0xA#32], [.r 5#5 0xAA#32, .pc 0x1004#32]),
    (.lha 5#5 3#5 8#16, atBytes [.r 3#5 0x2000#32], [.r 5#5 0xFFFF8899#32, .pc 0x1004#32]),
    (.lhau 5#5 3#5 10#16, atBytes [.r 3#5 0x2000#32], [.r 5#5 0xFFFFAABB#32, .r 3#5 0x200A#32, .pc 0x1004#32]),
    (.lhaux 5#5 3#5 4#5, atBytes [.r 3#5 0x2000#32, .r 4#5 0xE#32],
      [.r 5#5 0xFFFFEEFF#32, .r 3#5 0x200E#32, .pc 0x1004#32]),
    (.lhax 5#5 3#5 4#5, atBytes [.r 3#5 0x2000#32, .r 4#5 0xE#32], [.r 5#5 0xFFFFEEFF#32, .pc 0x1004#32]),
    (.lhbrx 5#5 3#5 4#5, atBytes [.r 3#5 0x2000#32, .r 4#5 0x2#32], [.r 5#5 0x3322#32, .pc 0x1004#32]),
    (.lhz 5#5 3#5 8#16, atBytes [.r 3#5 0x2000#32], [.r 5#5 0x8899#32, .pc 0x1004#32]),
    (.lhzu 5#5 3#5 8#16, atBytes [.r 3#5 0x2000#32], [.r 5#5 0x8899#32, .r 3#5 0x2008#32, .pc 0x1004#32]),
    (.lhzux 5#5 3#5 4#5, atBytes [.r 3#5 0x2000#32, .r 4#5 0x2#32], [.r 5#5 0x2233#32, .r 3#5 0x2002#32, .pc 0x1004#32]),
    (.lhzx 5#5 3#5 4#5, atBytes [.r 3#5 0x2000#32, .r 4#5 0x2#32], [.r 5#5 0x2233#32, .pc 0x1004#32]),
    (.lmw 29#5 3#5 4#16, atBytes [.r 3#5 0x2000#32],
      [.r 29#5 0x44556677#32, .r 30#5 0x8899AABB#32, .r 31#5 0xCCDDEEFF#32, .r 28#5 0x0#32, .pc 0x1004#32]),
    (.lswi 31#5 3#5 7#5, atBytes [.r 3#5 0x2000#32, .r 0#5 0xFFFFFFFF#32],
      [.r 31#5 0x112233#32, .r 0#5 0x44556600#32, .r 1#5 0x0#32, .pc 0x1004#32]),
    (.lswx 5#5 3#5 4#5, atBytes [.r 3#5 0x2000#32, .r 4#5 0x3#32, .xer 0x5#32],
      [.r 5#5 0x33445566#32, .r 6#5 0x77000000#32, .xer 0x5#32, .pc 0x1004#32]),
    (.lwarx 5#5 0#5 3#5, atBytes [.r 3#5 0x2000#32, .m 0x2000#32 0xCAFEF00D#32, .reserve false],
      [.r 5#5 0xCAFEF00D#32, .reserve true, .pc 0x1004#32]),
    (.lwbrx 5#5 3#5 4#5, atBytes [.r 3#5 0x2000#32, .r 4#5 0x4#32], [.r 5#5 0x77665544#32, .pc 0x1004#32]),
    (.lwz 5#5 3#5 4#16, atBytes [.r 3#5 0x2000#32], [.r 5#5 0x44556677#32, .pc 0x1004#32]),
    (.lwzu 5#5 3#5 65532#16, atBytes [.r 3#5 0x2008#32], [.r 5#5 0x44556677#32, .r 3#5 0x2004#32, .pc 0x1004#32]),
    (.lwzux 5#5 3#5 4#5, atBytes [.r 3#5 0x1FFC#32, .r 4#5 0xC#32],
      [.r 5#5 0x8899AABB#32, .r 3#5 0x2008#32, .pc 0x1004#32]),
    (.lwzx 5#5 0#5 4#5, atBytes [.r 0#5 0xFFFF#32, .r 4#5 0x200C#32], [.r 5#5 0xCCDDEEFF#32, .pc 0x1004#32]),
    (.stb 5#5 3#5 3#16, [.r 3#5 0x2000#32, .r 5#5 0x12345678#32],
      [.pc 0x1004#32, .m 0x2000#32 0x00000078#32, .m 0x2004#32 0x00000000#32]),
    (.stbu 5#5 3#5 3#16, [.r 3#5 0x2000#32, .r 5#5 0x12345678#32],
      [.r 3#5 0x2003#32, .pc 0x1004#32, .m 0x2000#32 0x00000078#32, .m 0x2004#32 0x00000000#32]),
    (.stbux 5#5 3#5 4#5, [.r 3#5 0x2000#32, .r 4#5 0x7#32, .r 5#5 0x12345678#32],
      [.r 3#5 0x2007#32, .pc 0x1004#32, .m 0x2000#32 0x00000000#32, .m 0x2004#32 0x00000078#32]),
    (.stbx 5#5 3#5 4#5, [.r 3#5 0x2000#32, .r 4#5 0x7#32, .r 5#5 0x12345678#32],
      [.pc 0x1004#32, .m 0x2000#32 0x00000000#32, .m 0x2004#32 0x00000078#32]),
    (.sth 5#5 3#5 2#16, [.r 3#5 0x2000#32, .r 5#5 0x12345678#32],
      [.pc 0x1004#32, .m 0x2000#32 0x00005678#32, .m 0x2004#32 0x00000000#32]),
    (.sthbrx 5#5 3#5 4#5, [.r 3#5 0x2000#32, .r 4#5 0x2#32, .r 5#5 0x12345678#32],
      [.pc 0x1004#32, .m 0x2000#32 0x00007856#32, .m 0x2004#32 0x00000000#32]),
    (.sthu 5#5 3#5 2#16, [.r 3#5 0x2000#32, .r 5#5 0x12345678#32],
      [.r 3#5 0x2002#32, .pc 0x1004#32, .m 0x2000#32 0x00005678#32, .m 0x2004#32 0x00000000#32]),
    (.sthux 5#5 3#5 4#5, [.r 3#5 0x2000#32, .r 4#5 0x6#32, .r 5#5 0x12345678#32],
      [.r 3#5 0x2006#32, .pc 0x1004#32, .m 0x2000#32 0x00000000#32, .m 0x2004#32 0x00005678#32]),
    (.sthx 5#5 3#5 4#5, [.r 3#5 0x2000#32, .r 4#5 0x6#32, .r 5#5 0x12345678#32],
      [.pc 0x1004#32, .m 0x2000#32 0x00000000#32, .m 0x2004#32 0x00005678#32]),
    (.stmw 30#5 1#5 65528#16, [.r 1#5 0x2008#32, .r 30#5 0xAAAAAAAA#32, .r 31#5 0xBBBBBBBB#32],
      [.pc 0x1004#32, .m 0x2000#32 0xAAAAAAAA#32, .m 0x2004#32 0xBBBBBBBB#32]),
    (.stswi 5#5 3#5 5#5, [.r 3#5 0x2001#32, .r 5#5 0x11223344#32, .r 6#5 0x55667788#32],
      [.pc 0x1004#32, .m 0x2000#32 0x00112233#32, .m 0x2004#32 0x44550000#32]),
    (.stswx 5#5 3#5 4#5, [.r 3#5 0x2000#32, .r 4#5 0x1#32, .r 5#5 0x11223344#32, .xer 0x3#32],
      [.pc 0x1004#32, .m 0x2000#32 0x00112233#32, .m 0x2004#32 0x00000000#32]),
    (.stw 5#5 3#5 4#16, [.r 3#5 0x2000#32, .r 5#5 0x12345678#32],
      [.pc 0x1004#32, .m 0x2000#32 0x00000000#32, .m 0x2004#32 0x12345678#32]),
    (.stwbrx 5#5 3#5 4#5, [.r 3#5 0x2000#32, .r 4#5 0x4#32, .r 5#5 0x12345678#32],
      [.pc 0x1004#32, .m 0x2000#32 0x00000000#32, .m 0x2004#32 0x78563412#32]),
    (.stwcx 5#5 0#5 3#5, [.r 3#5 0x2000#32, .r 5#5 0x12345678#32, .reserve true, .xer 0x80000000#32],
      [.m 0x2000#32 0x12345678#32, .cr0 3#4, .reserve false, .pc 0x1004#32]),
    (.stwu 1#5 1#5 65520#16, [.r 1#5 0x2010#32],
      [.r 1#5 0x2000#32, .pc 0x1004#32, .m 0x2000#32 0x00002010#32, .m 0x2004#32 0x00000000#32]),
    (.stwux 5#5 3#5 4#5, [.r 3#5 0x2000#32, .r 4#5 0x4#32, .r 5#5 0x12345678#32],
      [.r 3#5 0x2004#32, .pc 0x1004#32, .m 0x2000#32 0x00000000#32, .m 0x2004#32 0x12345678#32]),
    (.stwx 5#5 3#5 4#5, [.r 3#5 0x2000#32, .r 4#5 0x4#32, .r 5#5 0x12345678#32],
      [.pc 0x1004#32, .m 0x2000#32 0x00000000#32, .m 0x2004#32 0x12345678#32])] = true := by decide +kernel

/-- Vectors of 42_integer_arith.md, 96_test_vectors_derived.md B5. -/
theorem test_exec_integerArithmetic : runs [
    (.add 3#5 4#5 5#5 false true, [.r 4#5 0xFFFFFFFF#32, .r 5#5 0x1#32, .xer 0x80000000#32],
      [.r 3#5 0x0#32, .xer 0x80000000#32, .cr0 3#4, .pc 0x1004#32]),
    (.addc 3#5 4#5 5#5 false false, [.r 4#5 0xFFFFFFFF#32, .r 5#5 0x1#32],
      [.r 3#5 0x0#32, .xer 0x20000000#32, .pc 0x1004#32]),
    (.adde 3#5 4#5 5#5 true true, [.r 4#5 0x7FFFFFFF#32, .r 5#5 0x0#32, .xer 0x20000000#32],
      [.r 3#5 0x80000000#32, .xer 0xC0000000#32, .cr0 9#4, .pc 0x1004#32]),
    (.addi 3#5 4#5 65535#16, [.r 4#5 0x0#32], [.r 3#5 0xFFFFFFFF#32, .pc 0x1004#32]),
    (.addic 3#5 4#5 65535#16, [.r 4#5 0x1#32], [.r 3#5 0x0#32, .xer 0x20000000#32, .pc 0x1004#32]),
    (.addicDot 3#5 4#5 1#16, [.r 4#5 0xFFFFFFFF#32], [.r 3#5 0x0#32, .xer 0x20000000#32, .cr0 2#4, .pc 0x1004#32]),
    (.addis 3#5 4#5 32768#16, [.r 4#5 0x1234#32], [.r 3#5 0x80001234#32, .pc 0x1004#32]),
    (.addme 3#5 4#5 false false, [.r 4#5 0x0#32, .xer 0x20000000#32], [.r 3#5 0x0#32, .xer 0x20000000#32, .pc 0x1004#32]),
    (.addze 3#5 4#5 false false, [.r 4#5 0xFFFFFFFF#32, .xer 0x20000000#32],
      [.r 3#5 0x0#32, .xer 0x20000000#32, .pc 0x1004#32]),
    (.divw 3#5 4#5 5#5 false true, [.r 4#5 0xFFFFFFF9#32, .r 5#5 0xFFFFFFFE#32], [.r 3#5 0x3#32, .cr0 4#4, .pc 0x1004#32]),
    (.divwu 3#5 4#5 5#5 false false, [.r 4#5 0xFFFFFFF9#32, .r 5#5 0x2#32], [.r 3#5 0x7FFFFFFC#32, .pc 0x1004#32]),
    (.mulhw 3#5 4#5 5#5 true, [.r 4#5 0xFFFFFFFF#32, .r 5#5 0x1#32], [.r 3#5 0xFFFFFFFF#32, .cr0 8#4, .pc 0x1004#32]),
    (.mulhwu 3#5 4#5 5#5 true, [.r 4#5 0x80000000#32, .r 5#5 0x2#32], [.r 3#5 0x1#32, .cr0 4#4, .pc 0x1004#32]),
    (.mulli 3#5 4#5 65534#16, [.r 4#5 0x40000001#32], [.r 3#5 0x7FFFFFFE#32, .pc 0x1004#32]),
    (.mullw 3#5 4#5 5#5 true true, [.r 4#5 0xFFFFFFFF#32, .r 5#5 0x7FFFFFFF#32, .xer 0x40000000#32],
      [.r 3#5 0x80000001#32, .xer 0x0#32, .cr0 8#4, .pc 0x1004#32]),
    (.neg 3#5 4#5 true true, [.r 4#5 0x80000000#32], [.r 3#5 0x80000000#32, .xer 0xC0000000#32, .cr0 9#4, .pc 0x1004#32]),
    (.subf 3#5 4#5 5#5 false true, [.r 4#5 0x5#32, .r 5#5 0x5#32], [.r 3#5 0x0#32, .cr0 2#4, .pc 0x1004#32]),
    (.subfc 3#5 4#5 5#5 false false, [.r 4#5 0x1#32, .r 5#5 0x2#32], [.r 3#5 0x1#32, .xer 0x20000000#32, .pc 0x1004#32]),
    (.subfe 3#5 4#5 5#5 false false, [.r 4#5 0x0#32, .r 5#5 0x0#32, .xer 0x20000000#32],
      [.r 3#5 0x0#32, .xer 0x20000000#32, .pc 0x1004#32]),
    (.subfic 3#5 4#5 0#16, [.r 4#5 0x0#32], [.r 3#5 0x0#32, .xer 0x20000000#32, .pc 0x1004#32]),
    (.subfme 3#5 4#5 false false, [.r 4#5 0x0#32, .xer 0x20000000#32],
      [.r 3#5 0xFFFFFFFF#32, .xer 0x20000000#32, .pc 0x1004#32]),
    (.subfze 3#5 4#5 false false, [.r 4#5 0x0#32, .xer 0x20000000#32], [.r 3#5 0x0#32, .xer 0x20000000#32, .pc 0x1004#32])] = true := by decide +kernel

/-- Vectors of 43_logical_compare_rotate_shift.md, 96_test_vectors_derived.md B6. -/
theorem test_exec_logical : runs [
    (.and 3#5 4#5 5#5 true, [.r 4#5 0xFF00FF00#32, .r 5#5 0xFF00FF#32], [.r 3#5 0x0#32, .cr0 2#4, .pc 0x1004#32]),
    (.andc 3#5 4#5 5#5 false, [.r 4#5 0xFF00FF00#32, .r 5#5 0xFF00FF0#32], [.r 3#5 0xF000F000#32, .pc 0x1004#32]),
    (.andiDot 3#5 4#5 0#16, [.r 4#5 0x8765C321#32, .xer 0x80000000#32], [.r 3#5 0x0#32, .cr0 3#4, .pc 0x1004#32]),
    (.andisDot 3#5 4#5 32768#16, [.r 4#5 0x87654321#32], [.r 3#5 0x80000000#32, .cr0 8#4, .pc 0x1004#32]),
    (.cmp 7#3 4#5 5#5, [.r 4#5 0x5#32, .r 5#5 0x5#32, .xer 0x80000000#32, .cr 0xFFFFFFFF#32],
      [.cr 0xFFFFFFF3#32, .pc 0x1004#32]),
    (.cmpi 3#3 4#5 65535#16, [.r 4#5 0xFFFFFFFF#32], [.cr 0x20000#32, .pc 0x1004#32]),
    (.cmpl 0#3 4#5 5#5, [.r 4#5 0xFFFFFFFF#32, .r 5#5 0x1#32], [.cr 0x40000000#32, .pc 0x1004#32]),
    (.cmpli 3#3 4#5 65535#16, [.r 4#5 0xFFFFFFFF#32], [.cr 0x40000#32, .pc 0x1004#32]),
    (.cntlzw 3#5 4#5 true, [.r 4#5 0x10000#32], [.r 3#5 0xF#32, .cr0 4#4, .pc 0x1004#32]),
    (.eqv 3#5 4#5 5#5 false, [.r 4#5 0xFF00FF00#32, .r 5#5 0xFF00FF0#32], [.r 3#5 0xF0F0F0F#32, .pc 0x1004#32]),
    (.extsb 3#5 4#5 true, [.r 4#5 0x1234567F#32], [.r 3#5 0x7F#32, .cr0 4#4, .pc 0x1004#32]),
    (.extsh 3#5 4#5 false, [.r 4#5 0x12348000#32], [.r 3#5 0xFFFF8000#32, .pc 0x1004#32]),
    (.nand 3#5 4#5 5#5 false, [.r 4#5 0xFF00FF00#32, .r 5#5 0xFF00FF0#32], [.r 3#5 0xF0FFF0FF#32, .pc 0x1004#32]),
    (.nor 3#5 4#5 4#5 true, [.r 4#5 0xFFFFFFFF#32], [.r 3#5 0x0#32, .cr0 2#4, .pc 0x1004#32]),
    (.or 3#5 4#5 5#5 false, [.r 4#5 0xFF00FF00#32, .r 5#5 0xFF00FF0#32], [.r 3#5 0xFFF0FFF0#32, .pc 0x1004#32]),
    (.orc 3#5 4#5 5#5 false, [.r 4#5 0xFF00FF00#32, .r 5#5 0xFF00FF0#32], [.r 3#5 0xFF0FFF0F#32, .pc 0x1004#32]),
    (.ori 3#5 4#5 32768#16, [.r 4#5 0x12340000#32], [.r 3#5 0x12348000#32, .pc 0x1004#32]),
    (.oris 3#5 4#5 32768#16, [.r 4#5 0x1234#32], [.r 3#5 0x80001234#32, .pc 0x1004#32]),
    (.rlwimi 3#5 4#5 16#5 0#5 15#5 true, [.r 4#5 0xFFFF#32, .r 3#5 0x1234#32],
      [.r 3#5 0xFFFF1234#32, .cr0 8#4, .pc 0x1004#32]),
    (.rlwinm 3#5 4#5 31#5 0#5 0#5 true, [.r 4#5 0x1#32], [.r 3#5 0x80000000#32, .cr0 8#4, .pc 0x1004#32]),
    (.rlwnm 3#5 4#5 5#5 0#5 0#5 true, [.r 4#5 0x40000000#32, .r 5#5 0x1#32],
      [.r 3#5 0x80000000#32, .cr0 8#4, .pc 0x1004#32]),
    (.slw 3#5 4#5 5#5 true, [.r 4#5 0x87654321#32, .r 5#5 0xFFFFFFFF#32], [.r 3#5 0x0#32, .cr0 2#4, .pc 0x1004#32]),
    (.sraw 3#5 4#5 5#5 true, [.r 4#5 0xFFFFFFFF#32, .r 5#5 0x1#32],
      [.r 3#5 0xFFFFFFFF#32, .xer 0x20000000#32, .cr0 8#4, .pc 0x1004#32]),
    (.srawi 3#5 4#5 16#5 true, [.r 4#5 0x18000#32], [.r 3#5 0x1#32, .cr0 4#4, .pc 0x1004#32]),
    (.srw 3#5 4#5 5#5 true, [.r 4#5 0x87654321#32, .r 5#5 0x0#32], [.r 3#5 0x87654321#32, .cr0 8#4, .pc 0x1004#32]),
    (.xor 3#5 4#5 4#5 true, [.r 4#5 0xFF00FF00#32], [.r 3#5 0x0#32, .cr0 2#4, .pc 0x1004#32]),
    (.xori 3#5 4#5 65535#16, [.r 4#5 0x12345678#32], [.r 3#5 0x1234A987#32, .pc 0x1004#32]),
    (.xoris 3#5 4#5 65535#16, [.r 4#5 0x12345678#32], [.r 3#5 0xEDCB5678#32, .pc 0x1004#32])] = true := by decide +kernel

/-- Vectors of 44_mac.md, 96_test_vectors_derived.md B7. -/
theorem test_exec_multiplyAccumulate : runs [
    (.macchw 3#5 4#5 5#5 true false, [.r 4#5 0x80007FFF#32, .r 5#5 0x7FFF8000#32, .r 3#5 0x7FFFFFFF#32],
      [.r 3#5 0xBFFF0000#32, .xer 0xC0000000#32, .pc 0x1004#32]),
    (.macchws 3#5 4#5 5#5 true true, [.r 4#5 0x80007FFF#32, .r 5#5 0x7FFF8000#32, .r 3#5 0x7FFFFFFF#32],
      [.r 3#5 0x7FFFFFFF#32, .xer 0xC0000000#32, .cr0 5#4, .pc 0x1004#32]),
    (.macchwsu 3#5 4#5 5#5 true false, [.r 4#5 0x80007FFF#32, .r 5#5 0x7FFF8000#32, .r 3#5 0xFFFFFFFF#32],
      [.r 3#5 0xFFFFFFFF#32, .xer 0xC0000000#32, .pc 0x1004#32]),
    (.macchwu 3#5 4#5 5#5 false false, [.r 4#5 0x80007FFF#32, .r 5#5 0x7FFF8000#32, .r 3#5 0xFFFFFFFF#32],
      [.r 3#5 0x3FFF0000#32, .pc 0x1004#32]),
    (.machhw 3#5 4#5 5#5 true true, [.r 4#5 0x80007FFF#32, .r 5#5 0x7FFF8000#32, .r 3#5 0x40000000#32, .xer 0xC0000000#32],
      [.r 3#5 0x8000#32, .xer 0x80000000#32, .cr0 5#4, .pc 0x1004#32]),
    (.machhws 3#5 4#5 5#5 true false, [.r 4#5 0x80007FFF#32, .r 5#5 0x7FFF8000#32, .r 3#5 0x80000000#32],
      [.r 3#5 0x80000000#32, .xer 0xC0000000#32, .pc 0x1004#32]),
    (.machhwsu 3#5 4#5 5#5 false false, [.r 4#5 0x80007FFF#32, .r 5#5 0x7FFF8000#32, .r 3#5 0xF0000000#32],
      [.r 3#5 0xFFFFFFFF#32, .pc 0x1004#32]),
    (.machhwu 3#5 4#5 5#5 false false, [.r 4#5 0x80007FFF#32, .r 5#5 0x7FFF8000#32, .r 3#5 0x0#32],
      [.r 3#5 0x3FFF8000#32, .pc 0x1004#32]),
    (.maclhw 3#5 4#5 5#5 false false, [.r 4#5 0x80007FFF#32, .r 5#5 0x7FFF8000#32, .r 3#5 0x0#32],
      [.r 3#5 0xC0008000#32, .pc 0x1004#32]),
    (.maclhws 3#5 4#5 5#5 false false, [.r 4#5 0x80007FFF#32, .r 5#5 0x7FFF8000#32, .r 3#5 0x80000001#32],
      [.r 3#5 0x80000000#32, .pc 0x1004#32]),
    (.maclhwsu 3#5 4#5 5#5 true false, [.r 4#5 0x80007FFF#32, .r 5#5 0x7FFF8000#32, .r 3#5 0xC0008001#32],
      [.r 3#5 0xFFFFFFFF#32, .xer 0xC0000000#32, .pc 0x1004#32]),
    (.maclhwu 3#5 4#5 5#5 false false, [.r 4#5 0x80007FFF#32, .r 5#5 0x7FFF8000#32, .r 3#5 0x0#32],
      [.r 3#5 0x3FFF8000#32, .pc 0x1004#32]),
    (.mulchw 3#5 4#5 5#5 true, [.r 4#5 0x80007FFF#32, .r 5#5 0x7FFF8000#32],
      [.r 3#5 0x3FFF0001#32, .cr0 4#4, .pc 0x1004#32]),
    (.mulchwu 3#5 4#5 5#5 false, [.r 4#5 0x80007FFF#32, .r 5#5 0x7FFF8000#32], [.r 3#5 0x3FFF0001#32, .pc 0x1004#32]),
    (.mulhhw 3#5 4#5 5#5 true, [.r 4#5 0x80007FFF#32, .r 5#5 0x7FFF8000#32],
      [.r 3#5 0xC0008000#32, .cr0 8#4, .pc 0x1004#32]),
    (.mulhhwu 3#5 4#5 5#5 false, [.r 4#5 0x80007FFF#32, .r 5#5 0x7FFF8000#32], [.r 3#5 0x3FFF8000#32, .pc 0x1004#32]),
    (.mullhw 3#5 4#5 5#5 false, [.r 4#5 0x80007FFF#32, .r 5#5 0x7FFF8000#32], [.r 3#5 0xC0008000#32, .pc 0x1004#32]),
    (.mullhwu 3#5 4#5 5#5 true, [.r 4#5 0x80007FFF#32, .r 5#5 0x7FFF8000#32],
      [.r 3#5 0x3FFF8000#32, .cr0 4#4, .pc 0x1004#32]),
    (.nmacchw 3#5 4#5 5#5 true false, [.r 4#5 0x80007FFF#32, .r 5#5 0x7FFF8000#32, .r 3#5 0x80000000#32],
      [.r 3#5 0x4000FFFF#32, .xer 0xC0000000#32, .pc 0x1004#32]),
    (.nmacchws 3#5 4#5 5#5 false false, [.r 4#5 0x80007FFF#32, .r 5#5 0x7FFF8000#32, .r 3#5 0x80000000#32],
      [.r 3#5 0x80000000#32, .pc 0x1004#32]),
    (.nmachhw 3#5 4#5 5#5 false false, [.r 4#5 0x80007FFF#32, .r 5#5 0x7FFF8000#32, .r 3#5 0x0#32],
      [.r 3#5 0x3FFF8000#32, .pc 0x1004#32]),
    (.nmachhws 3#5 4#5 5#5 true true, [.r 4#5 0x80007FFF#32, .r 5#5 0x7FFF8000#32, .r 3#5 0x7FFFFFFF#32],
      [.r 3#5 0x7FFFFFFF#32, .xer 0xC0000000#32, .cr0 5#4, .pc 0x1004#32]),
    (.nmaclhw 3#5 4#5 5#5 true false, [.r 4#5 0x80007FFF#32, .r 5#5 0x7FFF8000#32, .r 3#5 0x7FFFFFFF#32],
      [.r 3#5 0xBFFF7FFF#32, .xer 0xC0000000#32, .pc 0x1004#32]),
    (.nmaclhws 3#5 4#5 5#5 false false, [.r 4#5 0x80007FFF#32, .r 5#5 0x7FFF8000#32, .r 3#5 0x7FFFFFFF#32],
      [.r 3#5 0x7FFFFFFF#32, .pc 0x1004#32])] = true := by decide +kernel

/-- Vectors of 45_processor_control_sync.md, 96_test_vectors_derived.md B8. -/
theorem test_exec_processorControl : runs [
    (.eieio, [], [.pc 0x1004#32]), (.isync, [], [.pc 0x1004#32]),
    (.mcrxr 0#3, [.xer 0xE0000005#32, .cr 0xFFFFFFF#32], [.cr 0xEFFFFFFF#32, .xer 0x5#32, .pc 0x1004#32]),
    (.mfcr 3#5, [.cr 0x2000000F#32], [.r 3#5 0x2000000F#32, .cr 0x2000000F#32, .pc 0x1004#32]),
    (.mfdcr 3#5 291#10, [.msr 0x4000#32, .r 3#5 0x77777777#32],
      [.r 3#5 0x77777777#32, .srr0 0x1000#32, .srr1 0x4000#32, .esr 0x4000000#32, .msr 0x0#32, .pc 0x700#32]),
    (.mfmsr 3#5, [.msr 0x29230#32], [.r 3#5 0x29230#32, .pc 0x1004#32]),
    (.mftb 3#5 268#10, [.r 3#5 0x55555555#32], [.r 3#5 0x0#32, .pc 0x1004#32]),
    (.mfspr 3#5 8#10, [.lr 0x12345679#32], [.r 3#5 0x12345679#32, .pc 0x1004#32]),
    (.mtcrf 100#8 4#5, [.r 4#5 0x12345678#32, .cr 0xFFFFFFFF#32], [.cr 0xF23FF6FF#32, .pc 0x1004#32]),
    (.mtdcr 291#10 3#5, [.msr 0x4000#32], [.srr0 0x1000#32, .srr1 0x4000#32, .esr 0x4000000#32, .msr 0x0#32, .pc 0x700#32]),
    (.mtmsr 4#5, [.r 4#5 0x29230#32], [.msr 0x29230#32, .pc 0x1004#32]),
    (.mtspr 1#10 4#5, [.r 4#5 0x4000000C#32, .xer 0x80000000#32], [.xer 0x4000000C#32, .pc 0x1004#32]),
    (.sync, [], [.pc 0x1004#32]), (.wrtee 4#5, [.r 4#5 0x8000#32, .msr 0x21000#32], [.msr 0x29000#32, .pc 0x1004#32]),
    (.wrteei true, [.msr 0x0#32], [.msr 0x8000#32, .pc 0x1004#32])] = true := by decide +kernel

/-- Vectors of 46_cache_tlb.md, 97_test_vectors_machine.md B9. -/
theorem test_exec_cacheAndTlb : runs [
    (.dcba 0#5 5#5, [.r 5#5 0x205C#32, .msr 0x4000#32, .m 0x2040#32 0x11223344#32],
      [.m 0x2040#32 0x11223344#32, .msr 0x4000#32, .pc 0x1004#32]),
    (.dcbf 0#5 5#5, [.r 5#5 0x205C#32, .msr 0x4000#32, .m 0x2040#32 0x11223344#32],
      [.m 0x2040#32 0x11223344#32, .msr 0x4000#32, .pc 0x1004#32]),
    (.dcbi 0#5 5#5, [.r 5#5 0x205C#32, .m 0x2040#32 0x11223344#32], [.m 0x2040#32 0x11223344#32, .pc 0x1004#32]),
    (.dcbst 0#5 5#5, [.r 5#5 0x205C#32, .msr 0x4000#32, .m 0x2040#32 0x11223344#32],
      [.m 0x2040#32 0x11223344#32, .msr 0x4000#32, .pc 0x1004#32]),
    (.dcbt 0#5 5#5, [.r 5#5 0x205C#32, .msr 0x4000#32, .m 0x2040#32 0x11223344#32],
      [.m 0x2040#32 0x11223344#32, .msr 0x4000#32, .pc 0x1004#32]),
    (.dcbtst 0#5 5#5, [.r 5#5 0x205C#32, .msr 0x4000#32, .m 0x2040#32 0x11223344#32],
      [.m 0x2040#32 0x11223344#32, .msr 0x4000#32, .pc 0x1004#32]),
    (.dccci 0#5 5#5, [.r 5#5 0x205C#32, .m 0x2040#32 0x11223344#32], [.m 0x2040#32 0x11223344#32, .pc 0x1004#32]),
    (.dcread 3#5 0#5 5#5, [.r 5#5 0x205C#32, .msr 0x4000#32, .r 3#5 0x55555555#32],
      [.r 3#5 0x55555555#32, .srr0 0x1000#32, .srr1 0x4000#32, .esr 0x4000000#32, .msr 0x0#32, .pc 0x700#32]),
    (.icbi 0#5 5#5, [.r 5#5 0x205C#32, .msr 0x4000#32, .m 0x2040#32 0x11223344#32],
      [.m 0x2040#32 0x11223344#32, .msr 0x4000#32, .pc 0x1004#32]),
    (.icbt 0#5 5#5, [.r 5#5 0x205C#32, .msr 0x4000#32, .m 0x2040#32 0x11223344#32],
      [.m 0x2040#32 0x11223344#32, .msr 0x4000#32, .pc 0x1004#32]),
    (.iccci 0#5 5#5, [.r 5#5 0x205C#32, .m 0x2040#32 0x11223344#32], [.m 0x2040#32 0x11223344#32, .pc 0x1004#32]),
    (.icread 0#5 5#5, [.r 5#5 0x205C#32, .msr 0x4000#32, .r 3#5 0x55555555#32],
      [.r 3#5 0x55555555#32, .srr0 0x1000#32, .srr1 0x4000#32, .esr 0x4000000#32, .msr 0x0#32, .pc 0x700#32]),
    (.tlbia, [.msr 0x4000#32, .r 3#5 0x55555555#32, .r 4#5 0x5#32, .cr 0xF0000000#32],
      [.r 3#5 0x55555555#32, .cr0 15#4, .srr0 0x1000#32, .srr1 0x4000#32, .esr 0x4000000#32, .msr 0x0#32, .pc 0x700#32]),
    (.tlbre 3#5 4#5 0#5, [.msr 0x4000#32, .r 3#5 0x55555555#32, .r 4#5 0x5#32, .cr 0xF0000000#32],
      [.r 3#5 0x55555555#32, .cr0 15#4, .srr0 0x1000#32, .srr1 0x4000#32, .esr 0x4000000#32, .msr 0x0#32, .pc 0x700#32]),
    (.tlbsx 3#5 4#5 5#5 false, [.msr 0x4000#32, .r 3#5 0x55555555#32, .r 4#5 0x5#32, .cr 0xF0000000#32],
      [.r 3#5 0x55555555#32, .cr0 15#4, .srr0 0x1000#32, .srr1 0x4000#32, .esr 0x4000000#32, .msr 0x0#32, .pc 0x700#32]),
    (.tlbsync, [], [.pc 0x1004#32]),
    (.tlbwe 3#5 4#5 0#5, [.msr 0x4000#32, .r 3#5 0x55555555#32, .r 4#5 0x5#32, .cr 0xF0000000#32],
      [.r 3#5 0x55555555#32, .cr0 15#4, .srr0 0x1000#32, .srr1 0x4000#32, .esr 0x4000000#32, .msr 0x0#32, .pc 0x700#32])] = true := by decide +kernel

/-! ### Further instructions and steps -/

/-- The UTLB entry of 97_test_vectors_machine.md B9.2: the 4 KB page 0x10000000 of process 7, at 0x20000000, EX = WR = 1. -/
def pageEntry : TlbEntry := (TlbEntry.zero.withHi 0x100000CF#32 7#32).withLo 0x20000300#32

/-- The start with that entry at index 5 and PID = 7. -/
def paged : State := { start with utlb := start.utlb.set 5 pageEntry, spr := { start.spr with pid := 7#32 } }

/-- The start with cacheable write-back data storage in region 0, and the block of 0x2040 filled with bytes 0xAA. -/
def cached : State :=
  { given [.r 5#5 0x205C#32] with
    spr := { start.spr with dccr := 0x80000000#32 }
    mem := start.mem.writeBytes 0x203C#32 (List.replicate 40 0xAA#8) }

/-- The same with that block in way A of the data cache. -/
def cachedLine : State :=
  { cached with
    dcache := start.dcache.set 2
      { wayA := { DLine.zero with valid := true, tag := 1#19, data := ~~~0#256 }, wayB := DLine.zero, lru := false } }

/-- `tlbwe` of both words, and `tlbre` of TLBLO (B9.2 rows 2, 3, 5). -/
theorem test_tlbwe_tlbre :
    (match exec (.tlbwe 3#5 4#5 0#5) { paged with gpr := (given [.r 3#5 0x100000CF#32, .r 4#5 0xFFFFFFC5#32]).gpr,
                                                  dcacheReady := ~~~0#256, icacheReady := true,
                                                  utlb := start.utlb.set 5 (TlbEntry.zero.withLo 0x20000300#32) } with
      | .next t => t.tlbEntry 5#6 == pageEntry
      | .fault _ => false
      | .refused _ => false) = true ∧
    gives (exec (.tlbre 3#5 4#5 1#5) { paged with gpr := (given [.r 4#5 5#32]).gpr }) [.r 3#5 0x20000300#32] = true := by
  decide +kernel

/-- `tlbsx.` finds entry 5 at the last byte of its page (B9.2 rows 9, 10). -/
theorem test_tlbsx :
    gives (exec (.tlbsx 3#5 0#5 5#5 true) { paged with gpr := (given [.r 5#5 0x10000FFF#32]).gpr })
      [.r 3#5 5#32, .cr0 2#4] = true := by decide +kernel

/-- `dcbz` of a line that the data cache holds zeroes the 32 bytes of its block and no other (B9.1). -/
theorem test_dcbz :
    (match exec (.dcbz 0#5 5#5) cachedLine with
      | .next t => ((List.range 40).map fun k => t.dataByte (0x203C#32 + BitVec.ofNat 32 k)) ==
          List.replicate 4 0xAA#8 ++ List.replicate 32 0#8 ++ List.replicate 4 0xAA#8
      | .fault _ => false
      | .refused _ => false) = true := by decide +kernel

/-- The first instruction after reset, `addi r3,r0,-1`; the tick of the step is counted (R850). -/
theorem test_step_addi :
    (match step (State.reset.withFetchWord 32 0x3860FFFF) with
      | .next t => t.reg 3#5 == 0xFFFFFFFF#32 && t.pc == 0#32 && t.tmr.tbl == 1#32
      | .fault _ => false
      | .refused _ => false) = true := by decide +kernel

/-- An all-zero word (96_test_vectors_derived.md, words that are not instructions). -/
theorem test_step_illegal :
    gives (step (given [.msr 0x8000#32, .evpr 0xFFF00000#32]))
      [.srr0 0x1000#32, .srr1 0x8000#32, .esr 0x08000000#32, .msr 0#32, .pc 0xFFF00700#32] = true := by decide +kernel

/-- An enabled external request in place of a `sync` (60_exceptions.md R753, R760). -/
theorem test_step_external :
    gives (step { (given [.msr 0x8000#32]).withFetchWord 32 0x7C0004AC with env := { start.env with extReq := true } })
      [.srr0 0x1000#32, .srr1 0x8000#32, .msr 0#32, .pc 0x500#32] = true := by decide +kernel

/-- A step at `pc` with the given word there, DBCR0 and MSR: DBSR but for MRR, the pc and DBCR0 after it, with IAC1 = 0x1008 and
IAC2 = 0x1010. -/
def debugStep (w : Nat) (dbcr0 msr pc : Word) : Option (Word × Word × Word) :=
  match step (State.withFetchWord
      { start with pc := pc, msr := msr
                   dbg := { start.dbg with dbcr0 := dbcr0, iac1 := 0x1008#32, iac2 := 0x1010#32 } } 32 w) with
  | .next t => some (t.dbg.dbsr &&& 0xFFFFFCFF#32, t.pc, t.dbg.dbcr0)
  | .fault _ => none
  | .refused _ => none

/-- Instruction address compare: exact, inclusive, exclusive and toggling ranges (B12.1). -/
theorem test_step_iac :
    debugStep 0x38630001 0x40800000#32 0x200#32 0x1008#32 = some (0x04000000#32, 0x2000#32, 0x40800000#32) ∧
    debugStep 0x38630001 0x40800000#32 0#32 0x1008#32 = some (0x04100000#32, 0x100C#32, 0x40800000#32) ∧
    debugStep 0x38630001 0x40E00000#32 0x200#32 0x100C#32 = some (0x06000000#32, 0x2000#32, 0x40E00000#32) ∧
    debugStep 0x38630001 0x40E00000#32 0x200#32 0x1010#32 = some (0#32, 0x1014#32, 0x40E00000#32) ∧
    debugStep 0x38630001 0x40700000#32 0x200#32 0x1010#32 = some (0x02000000#32, 0x2000#32, 0x40700000#32) ∧
    debugStep 0x38630001 0x40B08000#32 0x200#32 0x1000#32 = some (0x04000000#32, 0x2000#32, 0x40A08000#32) ∧
    debugStep 0x38630001 0x40A08000#32 0x200#32 0x1008#32 = some (0x04000000#32, 0x2000#32, 0x40B08000#32) := by
  decide +kernel

/-- Trap, branch-taken, instruction-complete and exception-taken events (B12.2). -/
theorem test_step_debugEvents :
    debugStep 0x0FE00000 0x41000000#32 0x200#32 0x1000#32 = some (0x10000000#32, 0x2000#32, 0x41000000#32) ∧
    debugStep 0x0FE00000 0x41000000#32 0#32 0x1000#32 = some (0x10100000#32, 0x700#32, 0x41000000#32) ∧
    debugStep 0x48000100 0x44000000#32 0x200#32 0x1000#32 = some (0x40000000#32, 0x2000#32, 0x44000000#32) ∧
    debugStep 0x48000100 0x44000000#32 0#32 0x1000#32 = some (0#32, 0x1100#32, 0x44000000#32) ∧
    debugStep 0x48000100 0x04000000#32 0#32 0x1000#32 = some (0x40100000#32, 0x1100#32, 0x04000000#32) ∧
    debugStep 0x38630001 0x48000000#32 0x200#32 0x1000#32 = some (0x80000000#32, 0x2000#32, 0x48000000#32) ∧
    debugStep 0x38630001 0x48000000#32 0#32 0x1000#32 = some (0#32, 0x1004#32, 0x48000000#32) ∧
    debugStep 0x44000002 0x42000000#32 0x8200#32 0x1000#32 = some (0x20000000#32, 0x2000#32, 0x42000000#32) ∧
    debugStep 0x44000002 0x42000000#32 0x8000#32 0x1000#32 = some (0x20100000#32, 0xC00#32, 0x42000000#32) := by
  decide +kernel

/-- A load through the page of entry 5 (caching inhibited), and a miss just after it (B9.3). -/
theorem test_translated_load :
    gives (exec (.lbz 3#5 4#5 0xABC#16)
        { paged with msr := 0x10#32, gpr := (given [.r 4#5 0x10000000#32]).gpr,
                     utlb := start.utlb.set 5 { pageEntry with i := true },
                     mem := start.mem.write 0x20000ABC#32 0x5A#8 }) [.r 3#5 0x5A#32, .pc 0x1004#32] = true ∧
    gives (exec (.lbz 3#5 4#5 0x1000#16) { paged with msr := 0x10#32, gpr := (given [.r 4#5 0x10000000#32]).gpr })
      [.r 3#5 0#32, .dear 0x10001000#32, .srr0 0x1000#32, .pc 0x1100#32] = true := by decide +kernel

/-- A bus error leaves the whole target register of `lbz` free, not one byte of it (60_exceptions.md R766). -/
theorem test_load_unanswered :
    ∃ t k, exec (.lbz 3#5 0#5 0#16) { start with env := { start.env with map := [⟨0#32, 1, .vacant⟩] } } = .next t ∧
      t.reg 3#5 = Config.freeWord k := ⟨_, _, rfl, rfl⟩

/-- The platform's map names single addresses (D3): a device word beside memory, the last range at the top of the address space, and
an address in two ranges. -/
theorem test_memKind :
    let s := { start with env := { start.env with map := [⟨0x2004#32, 4, .device⟩, ⟨0x2000#32, 16, .rom⟩, ⟨0xFFFFFFFC#32, 4, .absent⟩] } }
    s.memKind 0x2003#32 = .rom ∧ s.memKind 0x2004#32 = .device ∧ s.memKind 0x2007#32 = .device ∧ s.memKind 0x2008#32 = .rom ∧
      s.memKind 0x2010#32 = .ram ∧ s.memKind 0xFFFFFFFF#32 = .absent ∧ s.memKind 0#32 = .ram := by decide

/-- A dirty line cast out to where nothing is (R181). -/
theorem test_dcbf_absent :
    exec (.dcbf 0#5 5#5)
      { cached with
        env := { start.env with map := [⟨0x2050#32, 1, .absent⟩] }
        dcache := start.dcache.set 2
          { wayA := { DLine.zero with valid := true, dirty := true, tag := 1#19 }, wayB := DLine.zero, lru := false } } =
      .fault .writeToNothing := by rfl

/-! ### Witnesses: the hypotheses of each statement can be met -/

/-- The start in user mode. -/
def user : State := given [.msr 0x4000#32]

/-- The page of entry 5 with data and instruction translation on. -/
def translated : State := { paged with msr := 0x30#32, gpr := (given [.r 4#5 0x10000000#32]).gpr }

/-- The same in user mode. -/
def translatedUser : State := { translated with msr := 0x4030#32 }

/-- An outcome is a next state. -/
def isNext (o : Out) : Bool :=
  match o with
  | .next _ => true
  | .fault _ => false
  | .refused _ => false

theorem exists_next {o : Out} (h : isNext o = true) : ∃ t, o = .next t := by
  cases o with
  | next t => exact ⟨t, rfl⟩
  | fault f => cases h
  | refused r => cases h

/-- A calm state, from its decidable parts. -/
theorem calm {s : State} (h : s.stale = [] ∧ bit s.msr 27 = false ∧ bit s.spr.ccr0 14 = false ∧ s.dbg.dbcr1 = 0#32 ∧ s.dfb = none ∧
    s.dataMC = false) : s.calmData :=
  let ⟨settled, real, u0, compare, buffer, quiet⟩ := h
  ⟨settled, real, u0, compare, buffer, quiet⟩

/-- Plain storage, byte by byte. -/
theorem plainBytes {s : State} {l : Bool} {ea : Word} {n : Nat}
    (h : ∀ k, k < n → regionBit s.spr.dccr (ea + BitVec.ofNat 32 k) = false ∧ s.dHit (ea + BitVec.ofNat 32 k) = none ∧
      regionBit s.spr.sler (ea + BitVec.ofNat 32 k) = l ∧ s.memKind (ea + BitVec.ofNat 32 k) = .ram ∧
      ocmHolds s.env.dataOcm (ea + BitVec.ofNat 32 k) = false) : s.plain l ea n :=
  { inhibited := fun k hk => (h k hk).1
    absent := fun k hk => let ⟨_, absent, _⟩ := h k hk; absent
    order := fun k hk => let ⟨_, _, order, _⟩ := h k hk; order
    answers := fun k hk => let ⟨_, _, _, answers, _⟩ := h k hk; answers
    offChip := fun k hk => let ⟨_, _, _, _, offChip⟩ := h k hk; offChip }

/-- Valid divisions, a division by 0, the overflow; for `divwu` both cases. -/
theorem witness_DivisionsWriteTheQuotientOrAFreeValue :
    (∃ s : State, (s.reg 5#5).toInt ≠ 0 ∧ ¬ ((s.reg 4#5).toInt = -2147483648 ∧ (s.reg 5#5).toInt = -1)) ∧
    (∃ s : State, (s.reg 5#5).toInt = 0) ∧
    (∃ s : State, (s.reg 4#5).toInt = -2147483648 ∧ (s.reg 5#5).toInt = -1) ∧
    (∃ s : State, (s.reg 5#5).toNat ≠ 0) ∧ ∃ s : State, (s.reg 5#5).toNat = 0 :=
  ⟨⟨given [.r 4#5 0x80000000#32, .r 5#5 1#32], by decide⟩, ⟨start, by decide⟩,
   ⟨given [.r 4#5 0x80000000#32, .r 5#5 0xFFFFFFFF#32], by decide⟩, ⟨given [.r 5#5 1#32], by decide⟩, start, by decide⟩

/-- A mask that does not wrap and one that does, at the ends. -/
theorem witness_MaskAndRotateFollowR585 :
    (∃ (mb me : BitVec 5) (k : Nat), k < 32 ∧ mb.toNat ≤ me.toNat ∧ k = 31) ∧
    ∃ (mb me : BitVec 5) (k : Nat), k < 32 ∧ me.toNat < mb.toNat ∧ k = 0 :=
  ⟨⟨31#5, 31#5, 31, by decide⟩, 31#5, 0#5, 0, by decide⟩

/-- No event; an event in internal mode with MSR[DE] = 0, and one with both modes off. -/
theorem witness_BranchesGoToTheirTargets :
    (∃ s : State, bit (s.inForce .dbcr0) 5 = false) ∧
    (∃ s : State, s.settled ∧ bit s.dbg.dbcr0 5 = true ∧ bit s.dbg.dbcr0 0 = false ∧ bit s.dbg.dbcr0 1 = true ∧
      bit s.msr 22 = false) ∧
    ∃ s : State, s.settled ∧ bit s.dbg.dbcr0 5 = true ∧ bit s.dbg.dbcr0 0 = false ∧ bit s.dbg.dbcr0 1 = false ∧ bit s.msr 21 = false :=
  ⟨⟨start, by decide⟩, ⟨{ start with dbg := { start.dbg with dbcr0 := 0x44000001#32 } }, rfl, by decide⟩,
   { start with dbg := { start.dbg with dbcr0 := 0x04000001#32 } }, rfl, by decide⟩

theorem witness_SystemCallEntersItsHandler : ∃ s : State, s.noDebug := ⟨start, rfl, rfl, rfl, rfl⟩

/-- A trap condition that holds and one that does not, for both forms. -/
theorem witness_TrapInstructionsTrapOnTheirCondition :
    ∃ s : State, s.noDebug ∧ Claims.traps 4#5 (s.reg 3#5) (s.reg 4#5) ∧ ¬ Claims.traps 0#5 (s.reg 3#5) (s.reg 4#5) ∧
      Claims.traps 2#5 (s.reg 3#5) ((0xFFFF#16).signExtend 32) ∧
      ¬ Claims.traps 16#5 (s.reg 3#5) ((0xFFFF#16).signExtend 32) :=
  ⟨start, ⟨rfl, rfl, rfl, rfl⟩, by unfold Claims.traps; decide, by unfold Claims.traps; decide, by unfold Claims.traps; decide,
    by unfold Claims.traps; decide⟩

/-- A UTLB that is not initialized. -/
def fresh (items : List Item) : State := { given items with tlbReady := 0x7FFFFFFFFFFFFFFF#64 }

/-- A processor that left debug-wait, with a return to MSR[DWE] = 1 ahead, and with DBCR0[IDM] = `idm`. -/
def leftDebugWait (idm : Bool) : State :=
  let s := given [.srr1 0x400#32, .srr3 0x400#32]
  { s with dwLatched := true, dbg := { s.dbg with dbcr0 := if idm then 0x40000000#32 else 0#32 } }

/-- A return that enables translation, with an initialized UTLB and without; one into debug-wait and, with DBCR0[IDM] = 1, one that is
not. -/
theorem witness_ReturnsRestoreTheMachineState :
    (∃ s : State, s.settled ∧ bit s.msr 17 = false ∧ s.dwLatched = false ∧ bit s.spr.srr1 26 = true ∧ bit s.spr.srr3 27 = true ∧
      ¬ Claims.translatesTooEarly s.spr.srr1 s ∧ ¬ Claims.translatesTooEarly s.spr.srr3 s) ∧
    (∃ s : State, s.settled ∧ bit s.msr 17 = false ∧ Claims.translatesTooEarly s.spr.srr1 s ∧
      Claims.translatesTooEarly s.spr.srr3 s) ∧
    ∀ b : Bool, ∃ s : State, s.settled ∧ bit s.msr 17 = false ∧ s.dwLatched = true ∧ bit s.spr.srr1 21 = true ∧
      bit s.spr.srr3 21 = true ∧ bit s.dbg.dbcr0 0 = false ∧ bit s.dbg.dbcr0 1 = b ∧
      ¬ Claims.translatesTooEarly s.spr.srr1 s ∧ ¬ Claims.translatesTooEarly s.spr.srr3 s := by
  refine ⟨⟨given [.srr1 0x20#32, .srr3 0x10#32], rfl, by decide, rfl, by decide, by decide, ?_, ?_⟩,
    ⟨fresh [.srr1 0x20#32, .srr3 0x10#32], rfl, by decide, ?_, ?_⟩, fun b =>
    ⟨leftDebugWait b, rfl, by cases b <;> decide, rfl, by cases b <;> decide, by cases b <;> decide, by cases b <;> decide,
      by cases b <;> decide, ?_, ?_⟩⟩ <;>
    first
    | (unfold Claims.translatesTooEarly; decide +kernel)
    | (cases b <;> unfold Claims.translatesTooEarly <;> decide +kernel)

/-- A privileged instruction, and `mfspr` of a privileged number that is not implemented. -/
theorem witness_PrivilegedInstructionsTrapInUserMode :
    (∃ s : State, s.settled ∧ bit s.msr 17 = true ∧ s.dbg.dbcr0 = 0#32) ∧
    Instr.wrteei true ∈ Claims.privilegedForms 0#5 0#5 0#5 0#5 0#10 true false ∧ (1023#10).getLsbD 4 = true :=
  ⟨⟨user, rfl, by decide, rfl⟩, by decide, by decide⟩

theorem witness_InterruptEntrySavesAndVectors :
    Exc.critical .watchdog = true ∧ Exc.critical (.alignment 3#32) = false ∧
      Exc.criticalInput ≠ .machineCheckInstr ∧ Exc.criticalInput ≠ .machineCheckData := by decide

/-- The first and the last number; in user mode SPRG4; MCSR on a Virtex-4. -/
theorem witness_MovesFromRegistersReadThem :
    (∃ s, Claims.mayAccess 1019#10 s ∧ s.settled ∧ bit s.msr 17 = false ∧ (1023#10).toNat ∉ s.env.dcrDevices) ∧
    (∃ s : State, s.settled ∧ bit s.msr 17 = false ∧ (1023#10).toNat ∈ s.env.dcrDevices) ∧ Claims.mayAccess 1#10 user ∧
    ((1019#10).toNat, fun s : State => s.spr.iccr) ∈ Claims.plainSprs ++ Claims.otherSprs ++ Claims.userSprgs ∧
    ((1#10).toNat, fun s : State => s.xer) ∈ Claims.plainSprs ++ Claims.otherSprs ++ Claims.userSprgs ∧
    Claims.mayAccess 260#10 user ∧
    ((260#10).toNat, fun s : State => s.spr.sprg4) ∈ Claims.plainSprs ++ Claims.otherSprs ++ Claims.userSprgs ∧
    ∃ s : State, Claims.mayAccess 572#10 s ∧ s.virtex4 = true :=
  ⟨⟨start, ⟨rfl, by decide⟩, rfl, by decide⟩, ⟨{ start with env := { start.env with dcrDevices := [1023] } }, rfl, by decide⟩,
   ⟨rfl, by decide⟩, by simp [Claims.plainSprs], by simp [Claims.plainSprs], ⟨rfl, by decide⟩, by simp [Claims.userSprgs],
   { start with spr := { start.spr with pvr := 0x20011430#32 } }, ⟨rfl, by decide⟩, by decide⟩

/-- A register in user mode and one in privileged mode; CCR0 whose IPP changes in its sequence. -/
theorem witness_MtsprWritesTheNamedRegister :
    Claims.mayAccess 1#10 user ∧ ((1#10).toNat, fun s : State => s.xer) ∈ Claims.plainSprs ∧
      Claims.mayWrite (1#10).toNat (user.reg 3#5) user ∧ Claims.mayAccess 947#10 start ∧
      ((947#10).toNat, fun s : State => s.spr.ccr0) ∈ Claims.plainSprs ∧ Claims.mayWrite (947#10).toNat (start.reg 3#5) start ∧
      bit (start.reg 3#5) 10 ≠ bit start.spr.ccr0 10 :=
  ⟨⟨rfl, by decide⟩, by simp [Claims.plainSprs], by simp [Claims.mayWrite], ⟨rfl, by decide⟩, by simp [Claims.plainSprs],
   by unfold Claims.mayWrite Claims.ccr0Sequence; simp; decide, by decide⟩

theorem witness_MtsprOfStatusAndControlRegisters :
    ∃ s : State, s.settled ∧ bit s.msr 17 = false ∧ s.virtex4 = true ∧ bit (s.reg 3#5) 2 = false ∧ bit (s.reg 3#5) 3 = false ∧
      s.tmr.frozen = true :=
  ⟨{ start with spr := { start.spr with pvr := 0x20011470#32 }, tmr := { start.tmr with frozen := true } },
   rfl, by decide, by decide, by decide, by decide, rfl⟩

/-- A write of TBL while the timers run, from 0: no time-out; the FIT and the first and the second watchdog time-out together (FP = 3 and
WP = 0 select TBL[11] and TBL[15]); the third, which resets if TCR[WRC] says so. -/
def countsFrom0 (v tsr tcr : Word) : State :=
  let s := given [.r 3#5 v]
  { s with tmr := { s.tmr with tbl := 0#32, tsr := tsr, tcr := tcr, frozen := false } }

theorem witness_MtsprOfStatusAndControlRegisters_TBL :
    (∀ s, s = countsFrom0 0x000000FF#32 0#32 0#32 ∨ s = countsFrom0 0x00110000#32 0#32 0x03000000#32 ∨
        s = countsFrom0 0x00110000#32 0x80000000#32 0x03000000#32 →
      s.settled ∧ bit s.msr 17 = false ∧ s.tmr.frozen = false) ∧
    Claims.rises 11 0#32 0x00110000#32 ∧ Claims.rises 15 0#32 0x00110000#32 ∧ ¬ Claims.rises 23 0#32 0x000000FF#32 ∧
    ∃ s : State, s.settled ∧ bit s.msr 17 = false ∧ s.tmr.frozen = false ∧
      Claims.rises (15 - 4 * (s.tmr.tcr.extractLsb' 30 2).toNat) s.tmr.tbl (s.reg 3#5) ∧ bit s.tmr.tsr 0 = true ∧
      bit s.tmr.tsr 1 = true ∧ s.tmr.tcr.extractLsb' 28 2 = Claims.kindCode .chip := by
  refine ⟨?_, by unfold Claims.rises; decide, by unfold Claims.rises; decide, by unfold Claims.rises; decide,
    countsFrom0 0x00010000#32 0xC0000000#32 0x20000000#32, rfl, by decide, rfl, by unfold Claims.rises; decide, by decide, by decide,
    by decide⟩
  rintro s (rfl | rfl | rfl) <;> exact ⟨rfl, by decide, rfl⟩

/-- The row for `mtspr TBL` of spec/97_test_vectors_machine.md (D19): TBL[23] from 0 to 1 sets TSR[FIS]. -/
theorem test_mtspr_tbl_times_out :
    (match exec (.mtspr 284#10 3#5) (countsFrom0 0x00000100#32 0#32 0#32) with
      | .next t => t.tmr.tsr == 0x04000000#32 && t.tmr.tbl == 0x100#32
      | .fault _ => false
      | .refused _ => false) = true := by decide +kernel

/-- An `mtmsr` that enables translation, with an initialized UTLB and without. -/
theorem witness_MovesToCrMsrAndDcrAndSynchronization_translation :
    (∃ s : State, s.settled ∧ bit s.msr 17 = false ∧ bit (s.reg 3#5) 27 = true ∧ ¬ Claims.translatesTooEarly (s.reg 3#5) s) ∧
    ∃ s : State, s.settled ∧ bit s.msr 17 = false ∧ Claims.translatesTooEarly (s.reg 3#5) s := by
  refine ⟨⟨given [.r 3#5 0x10#32], rfl, by decide, by decide, ?_⟩, fresh [.r 3#5 0x10#32], rfl, by decide, ?_⟩ <;>
    unfold Claims.translatesTooEarly <;> decide +kernel

theorem witness_MovesToCrMsrAndDcrAndSynchronization :
    ∀ b : Bool, ∃ s : State, s.settled ∧ bit s.msr 17 = false ∧ bit (s.reg 3#5) 17 = bit s.msr 17 ∧
      bit (s.reg 3#5) 26 = bit s.msr 26 ∧ bit (s.reg 3#5) 27 = bit s.msr 27 ∧ ((0#10).toNat ∈ s.env.dcrDevices ↔ b = true) :=
  fun b => ⟨{ start with env := { start.env with dcrDevices := if b then [0] else [] } }, rfl, by cases b <;> decide⟩

theorem calm_start : start.calmData := calm (by decide)

/-- A class whose lines are not valid agrees with memory. -/
theorem coherent_of_invalid {s : State} {i : BitVec 8} (ha : (s.dClass i).wayA.valid = false)
    (hb : (s.dClass i).wayB.valid = false) : s.coherent i := by
  refine ⟨fun h => ?_, fun w h => ?_⟩
  · rw [ha] at h; cases h
  · cases w with
    | a => exact absurd h (by simp [DClass.line, ha])
    | b => exact absurd h (by simp [DClass.line, hb])

theorem ready_cached : Claims.cacheReady (cached.eaX 0#5 5#5) cached :=
  ⟨calm (by decide), by decide +kernel, rfl, coherent_of_invalid (by decide) (by decide)⟩

/-- The bus answers with an error at addresses 0 to 31. -/
def unanswered : State := { start with env := { start.env with map := [⟨0#32, 32, .vacant⟩] } }

/-- With memory everywhere every byte is memory, and every block answers. -/
theorem ram {s : State} (h : s.env.map = []) (a : Word) : s.memKind a = .ram := memKind_quiet h a

/-- One kind behind every address. -/
theorem kind {s : State} {k : MemKind} (h : s.env.map = [⟨0#32, 2 ^ 32, k⟩]) (a : Word) : s.memKind a = k := by
  have := (a - 0#32).isLt
  unfold State.memKind
  rw [h, List.find?_cons_of_pos (by simpa [MapRange.holds] using this)]

theorem blocks {s : State} (h : s.env.map = []) (ea : Word) (n : Nat) : s.blocksAnswer ea n := fun _ _ _ a _ => memKind_quiet h a

/-- Data-side on-chip memory in the whole address range from 0xFFFFFFF0 on and at 0 to 15, across the top of the address space. -/
def onChip : State := { start with env := { start.env with dataOcm := some ⟨0xFFFFFFF0#32, 32⟩ } }

/-- Loads of both byte orders, a word at the top of the address space among them (SLER makes region 31 little-endian), with
CCR0[LWL] = 1; the last word of a cacheable block; on-chip memory across the top of the address space; a word of which only the last
byte meets a bus error. -/
theorem witness_LoadsReadMemory :
    (∃ s : State, s.calmData ∧ bit s.spr.ccr0 6 = true ∧ s.blocksAnswer 0xFFFFFFFC#32 4 ∧ s.plain true 0xFFFFFFFC#32 4 ∧
      s.plain false 0x1FFE#32 4 ∧ (⟨.lwz 3#5 0#5 0xFFFC#16, 0xFFFFFFFC#32, 4, false, false⟩, false) ∈
        Claims.loadForms 3#5 0#5 5#5 0xFFFC#16 s ∧
      (⟨.lwzu 3#5 4#5 0x1FFE#16, 0x1FFE#32, 4, false, false⟩, true) ∈ Claims.loadForms 3#5 4#5 5#5 0x1FFE#16 s) ∧
    (∃ s : State, ∃ c c', s.calmData ∧ (c, false) ∈ Claims.loadForms 3#5 0#5 5#5 0#16 s ∧ c.cacheable false s ∧ c.width = 4 ∧
      (c', true) ∈ Claims.loadForms 3#5 4#5 5#5 0#16 s ∧ c'.cacheable false s) ∧
    (∃ s : State, ∃ c, s.calmData ∧ (c, false) ∈ Claims.loadForms 3#5 0#5 5#5 0xFFFE#16 s ∧ c.onChip false s ∧ c.ea = 0xFFFFFFFE#32 ∧
      c.width = 4) ∧
    ∃ s : State, ∃ c c', s.calmData ∧ (c, false) ∈ Claims.loadForms 3#5 0#5 5#5 0#16 s ∧ c.uncached s ∧ c.meets .vacant s ∧
      (c', true) ∈ Claims.loadForms 3#5 4#5 5#5 0#16 s ∧ c'.uncached s ∧ c'.meets .vacant s := by
  refine ⟨⟨{ start with spr := { start.spr with sler := 1#32, ccr0 := 0x02700000#32 } }, calm (by decide), by decide, blocks rfl _ _,
      plainBytes (by decide), plainBytes (by decide), by decide, by decide⟩,
    ⟨cached, ⟨.lwzx 3#5 0#5 5#5, 0x205C#32, 4, false, false⟩, ⟨.lhzux 3#5 4#5 5#5, 0x205C#32, 2, false, false⟩, ready_cached.1,
      by decide, ⟨ready_cached, by decide⟩, rfl, by decide, ready_cached, by decide⟩,
    ⟨onChip, ⟨.lwz 3#5 0#5 0xFFFE#16, 0xFFFFFFFE#32, 4, false, false⟩, calm (by decide), by decide, ?_, rfl, rfl⟩,
    { start with env := { start.env with map := [⟨3#32, 1, .vacant⟩] } }, ⟨.lwz 3#5 0#5 0#16, 0#32, 4, false, false⟩,
    ⟨.lwzu 3#5 4#5 0#16, 0#32, 4, false, false⟩, calm (by decide), by decide, ⟨calm (by decide), rfl, by decide⟩,
    ⟨3, by decide, by decide⟩, by decide, ⟨calm (by decide), rfl, by decide⟩, 3, by decide, by decide⟩
  unfold Claims.Scalar.onChip
  decide

/-- The same for stores; a write-through region besides, and a word with a byte behind which nothing is. -/
theorem witness_StoresWriteMemory :
    (start.calmData ∧ start.mem.wf = true ∧ start.dataOcm.wf = true ∧ start.plain false (start.eaD 0#5 0xFFFF#16) 4 ∧
      start.plain false (start.eaX 4#5 5#5) 4 ∧
      (⟨.stwux 3#5 4#5 5#5, start.eaX 4#5 5#5, 4, false, false⟩, true) ∈ Claims.storeForms 3#5 4#5 5#5 0#16 start) ∧
    (∀ b : Bool, ∃ s : State, s.calmData ∧ s.mem.wf = true ∧ regionBit s.spr.dcwr (s.eaX 0#5 5#5) = b ∧
      (∃ c, (c, false) ∈ Claims.storeForms 3#5 0#5 5#5 0#16 s ∧ c.cacheable false s) ∧
      ∃ c, (c, true) ∈ Claims.storeForms 3#5 4#5 5#5 0#16 s ∧ c.cacheable false s) ∧
    (∃ s : State, ∃ c, s.calmData ∧ s.mem.wf = true ∧ s.dataOcm.wf = true ∧ (c, false) ∈ Claims.storeForms 3#5 0#5 5#5 0xFFFE#16 s ∧
      c.onChip false s ∧ c.ea = 0xFFFFFFFE#32 ∧ c.width = 4) ∧
    ∀ k, k = .vacant ∨ k = .absent → ∃ s : State, ∃ c c', s.calmData ∧ s.mem.wf = true ∧
      (c, false) ∈ Claims.storeForms 3#5 0#5 5#5 0#16 s ∧ c.uncached s ∧ regionBit s.spr.sler c.ea = false ∧ c.meets k s ∧
      (k = .vacant → ¬ c.meets .absent s ∧ ¬ c'.meets .absent s) ∧
      (c', true) ∈ Claims.storeForms 3#5 4#5 5#5 0#16 s ∧ c'.uncached s ∧ c'.meets k s := by
  refine ⟨⟨calm_start, by decide, by decide, plainBytes (by decide), plainBytes (by decide), by decide⟩, fun b => ?_,
    ⟨onChip, ⟨.stw 3#5 0#5 0xFFFE#16, 0xFFFFFFFE#32, 4, false, false⟩, calm (by decide), by decide, by decide, by decide, ?_, rfl, rfl⟩,
    fun k hk => ?_⟩
  rotate_left
  · unfold Claims.Scalar.onChip
    decide
  · refine ⟨{ start with env := { start.env with map := [⟨3#32, 1, k⟩] } }, ⟨.stw 3#5 0#5 0#16, 0#32, 4, false, false⟩,
      ⟨.stwu 3#5 4#5 0#16, 0#32, 4, false, false⟩, ?_⟩
    unfold Claims.Scalar.uncached Claims.Scalar.meets
    rcases hk with rfl | rfl <;>
      exact ⟨calm (by decide), by decide, by decide, ⟨calm (by decide), rfl, by decide⟩, by decide, ⟨3, by decide, by decide⟩, by decide,
        by decide, ⟨calm (by decide), rfl, by decide⟩, 3, by decide, by decide⟩
  have hc : Claims.cacheReady 0x205C#32 { cached with spr := { cached.spr with dcwr := if b then 0x80000000#32 else 0#32 } } :=
    ⟨calm (by cases b <;> decide), ready_cached.2.1, rfl, coherent_of_invalid (by cases b <;> decide) (by cases b <;> decide)⟩
  refine ⟨_, hc.1, hc.2.1, by cases b <;> decide, ⟨⟨.stwx 3#5 0#5 5#5, 0x205C#32, 4, false, false⟩, ?_, hc, by cases b <;> decide⟩,
    ⟨.stwux 3#5 4#5 5#5, 0x205C#32, 4, false, false⟩, ?_, hc, by cases b <;> decide⟩ <;> clear hc <;> cases b <;> decide

/-- A number that no register has, the Write-Only and Read-Only numbers, a device without MCSR, another TBR, WS = 2. -/
theorem witness_InvalidFormsStop :
    Claims.mayAccess 2#10 user ∧ (∀ f, ((2#10).toNat, f) ∉ Claims.plainSprs ++ Claims.otherSprs ++ Claims.userSprgs) ∧
    Claims.mayAccess 1023#10 start ∧
    (∀ f, ((1023#10).toNat, f) ∉ Claims.plainSprs ++ Claims.otherSprs ++ Claims.userSprgs) ∧
    Claims.mayAccess 284#10 start ∧ Claims.mayAccess 287#10 start ∧ Claims.mayAccess 260#10 user ∧
    Claims.mayAccess 572#10 start ∧ start.virtex4 = false ∧ (270#10 : BitVec 10) ≠ 268#10 ∧ (270#10 : BitVec 10) ≠ 269#10 ∧
    start.settled ∧ bit start.msr 17 = false ∧ 1 < (2#5 : BitVec 5).toNat :=
  ⟨⟨rfl, by decide⟩, by simp [Claims.plainSprs, Claims.otherSprs, Claims.userSprgs], ⟨rfl, by decide⟩,
   by simp [Claims.plainSprs, Claims.otherSprs, Claims.userSprgs], ⟨rfl, by decide⟩, ⟨rfl, by decide⟩, ⟨rfl, by decide⟩,
   ⟨rfl, by decide⟩, by decide, by decide, by decide, rfl, by decide⟩

/-- CCR0 written with MSR[CE] = 1, regions and a page made cacheable after reset. -/
theorem witness_InvalidFormsStop_errors :
    (∃ s : State, s.settled ∧ bit s.msr 17 = false ∧ ¬ Claims.ccr0Sequence (s.reg 3#5) s) ∧
    ∃ s : State, s.settled ∧ bit s.msr 17 = false ∧ Claims.newlyCacheable (s.reg 3#5) s.spr.dccr ∧
      Claims.newlyCacheable (s.reg 3#5) s.spr.iccr ∧ ¬ Claims.dcacheInvalidated s ∧ s.icacheReady = false ∧
      Claims.cachesTooEarly (Claims.tlbWritten 0#5 3#5 4#5 s) s :=
  ⟨⟨given [.msr 0x20000#32], rfl, by decide, fun h => absurd (h.1 (.inl (by decide))).1.1 (by decide)⟩,
   given [.r 3#5 0x40#32], rfl, by decide, ⟨25, by decide⟩, ⟨25, by decide⟩, fun h => absurd (h 0#8) (by decide), rfl,
   by decide, by decide, fun h => absurd h.2 (by decide)⟩

/-- With a reservation and without. -/
theorem witness_LoadReserveAndStoreConditional :
    ∀ b : Bool, ∃ s : State, s.calmData ∧ s.mem.wf = true ∧ s.plain false (s.eaX 0#5 4#5) 4 ∧ s.blocksAnswer (s.eaX 0#5 4#5) 4 ∧
      (s.eaX 0#5 4#5).toNat % 4 = 0 ∧ s.reserve = b :=
  fun b => ⟨{ start with reserve := b }, calm (by cases b <;> decide), by cases b <;> decide, plainBytes (by cases b <;> decide),
    blocks rfl _ _, by cases b <;> decide, rfl⟩

theorem words {s : State} (h : s.env.map = []) (ea : Word) (n : Nat) : s.wordsAnswer ea n := fun _ _ a _ => memKind_quiet h a

/-- A bus error for the byte at address 0 alone. -/
def errorAtZero : State := { start with env := { start.env with map := [⟨0#32, 1, .vacant⟩] } }

/-- All 32 registers from address 0, and one register; a bus error for a byte that is discarded, beside the last word. -/
theorem witness_LoadAndStoreMultiple :
    (∀ ea n, start.blocksAnswer ea n) ∧ (∀ ea n, start.wordsAnswer ea n) ∧ start.calmData ∧ start.mem.wf = true ∧
    start.plain false (start.eaD 0#5 0#16) (4 * (32 - (0#5 : Reg).toNat)) ∧
    start.plain false (start.eaD 0#5 0xFFFD#16) (4 * (32 - (31#5 : Reg).toNat)) ∧
    errorAtZero.calmData ∧ errorAtZero.mem.wf = true ∧
    Claims.WordsMeetBusError (errorAtZero.eaD 0#5 1#16) (4 * (32 - (31#5 : Reg).toNat)) errorAtZero ∧
    ∀ k, k < 4 → errorAtZero.memKind (1#32 + BitVec.ofNat 32 k) = .ram :=
  ⟨blocks rfl, words rfl, calm_start, by decide, plainBytes (by decide +kernel), plainBytes (by decide), calm (by decide), by decide,
   ⟨rfl, by decide, 0, by decide, 0#32, by decide, by decide⟩, by decide⟩

/-- R966: a string of bytes 1 to 3 reads byte 0 too, which the bus answers with an error; a scalar at address 1 does not. -/
theorem test_string_reads_whole_words :
    let s := { given [.r 4#5 1#32] with env := errorAtZero.env }
    (match exec (.lswi 3#5 4#5 3#5) s with | .next t => t.dataMC | _ => false) = true ∧
    (match exec (.lbz 3#5 4#5 0#16) s with | .next t => t.dataMC | _ => true) = false := by decide

/-- 32 bytes for NB = 0, 127 bytes, none; three bytes at addresses 1 to 3 with a bus error for the byte at 0 (R966). -/
theorem witness_LoadAndStoreString :
    (start.calmData ∧ start.mem.wf = true ∧ start.plain false (start.eaR 4#5) 32 ∧ start.xer.toNat % 128 = 0) ∧
    (∃ s : State, s.calmData ∧ s.mem.wf = true ∧ s.eaR 4#5 = 1#32 ∧ Claims.WordsMeetBusError (s.eaR 4#5) 3 s ∧
      s.plain false (s.eaR 4#5) 3) ∧
    ∃ s : State, (∀ ea n, s.blocksAnswer ea n) ∧ (∀ ea n, s.wordsAnswer ea n) ∧ s.calmData ∧ s.mem.wf = true ∧ s.xer.toNat % 128 = 127 ∧
      s.plain false (s.eaX 4#5 5#5) 127 :=
  ⟨⟨calm_start, by decide, plainBytes (by decide +kernel), by decide⟩,
   ⟨{ given [.r 4#5 1#32] with env := errorAtZero.env }, calm (by decide), by decide, by decide,
    ⟨rfl, by decide, 0, by decide, 0#32, by decide, by decide⟩, plainBytes (by decide)⟩,
   given [.xer 0x7F#32], blocks rfl, words rfl, calm (by decide), by decide, by decide, plainBytes (by decide +kernel)⟩

/-- Write-back storage, and (address 0x80000000) other storage. -/
theorem witness_DcbzAndDcbaEstablishTheBlock :
    (∃ s, Claims.cacheReady (s.eaX 0#5 5#5) s ∧ s.writeBackRegion (s.eaX 0#5 5#5)) ∧
    ∃ s, Claims.cacheReady (s.eaX 0#5 4#5) s ∧ ¬ s.writeBackRegion (s.eaX 0#5 4#5) :=
  ⟨⟨cached, ready_cached, by unfold State.writeBackRegion; decide⟩, start,
   ⟨calm_start, by decide, rfl, coherent_of_invalid (by decide) (by decide)⟩, fun h => absurd h.1 (by decide)⟩

theorem witness_FlushesAndTouchesKeepEveryByte :
    (∃ s, Claims.cacheReady (s.eaX 0#5 5#5) s ∧ regionBit s.spr.dccr (s.eaX 0#5 5#5) = true ∧
      ocmHolds s.env.dataOcm (s.eaX 0#5 5#5) = false ∧ bit s.spr.ccr0 7 = false) ∧
    ∃ s, Claims.cacheReady (s.eaX 0#5 4#5) s ∧ regionBit s.spr.dccr (s.eaX 0#5 4#5) = false :=
  ⟨⟨cached, ready_cached, by decide⟩, start,
   ⟨calm_start, by decide, rfl, coherent_of_invalid (by decide) (by decide)⟩, by decide⟩

/-- A dirty line, cast out where nothing is and where the bus answers with an error. -/
theorem witness_FlushesAndTouchesKeepEveryByte_errors :
    ∀ k, k = .absent ∨ k = .vacant → ∃ s : State, s.calmData ∧ s.dbg.dbcr0 = 0#32 ∧ Claims.dirtyAt s (s.eaX 0#5 5#5) = true ∧
      (∃ a, blockOf a = blockOf (s.eaX 0#5 5#5) ∧ s.memKind a = k) ∧
      (k = .vacant → ¬ ∃ a, blockOf a = blockOf (s.eaX 0#5 5#5) ∧ s.memKind a = .absent) := by
  intro k hk
  refine ⟨{ cached with
    env := { start.env with map := [⟨0#32, 2 ^ 32, k⟩] }
    dcache := start.dcache.set 2
      { wayA := { DLine.zero with valid := true, dirty := true, tag := 1#19 }, wayB := DLine.zero, lru := false } }, ?_⟩
  refine ⟨calm (by rcases hk with rfl | rfl <;> decide), rfl, by rcases hk with rfl | rfl <;> decide,
    ⟨0x205C#32, by rcases hk with rfl | rfl <;> decide, kind rfl _⟩, ?_⟩
  rintro rfl ⟨a, -, ha⟩
  exact absurd ((kind rfl a).symm.trans ha) (by decide)

theorem witness_InvalidationsDiscardLines :
    ∃ s : State, s.calmData ∧ bit s.msr 17 = false ∧ s.distinctLines (classIndex (s.eaX 0#5 5#5)) :=
  ⟨cached, ready_cached.1, by decide, ready_cached.2.2.2.1⟩

/-- Outside Sequence 1 and inside. -/
theorem witness_InstructionCacheInstructions :
    ∀ b : Bool, ∃ s : State, s.ccr0Open = b ∧ s.iHit 0#32 0#32 = none ∧ s.calmData ∧ bit s.msr 17 = false ∧
      ((s.iClass (classIndex 0#32)).wayA.valid = true → (s.iClass (classIndex 0#32)).wayB.valid = true →
        (s.iClass (classIndex 0#32)).wayA.tag ≠ (s.iClass (classIndex 0#32)).wayB.tag) ∧
      s.eaX 0#5 4#5 = 0#32 ∧ regionBit s.spr.iccr 0#32 = true ∧ bit s.spr.ccr0 23 = false ∧
      (∀ a, blockOf a = blockOf 0#32 → s.memKind a ≠ .vacant) ∧
      ocmHolds s.env.dataOcm 0#32 = false ∧ ocmHolds s.env.instrOcm 0#32 = false :=
  fun b => ⟨{ start with spr := { start.spr with iccr := 0x80000000#32 }, ccr0Open := b }, rfl, rfl, calm (by cases b <;> decide),
    by cases b <;> decide, fun h => absurd h (by cases b <;> decide), by cases b <;> decide, by cases b <;> decide,
    by cases b <;> decide, fun a _ => by rw [ram rfl]; decide, by cases b <;> decide⟩

/-- CCR0[CIS] = 0 and 1. -/
theorem witness_CacheReads :
    ∀ b : Bool, ∃ s : State, s.calmData ∧ bit s.msr 17 = false ∧ (s.eaX 0#5 4#5).toNat % 4 = 0 ∧ bit s.spr.ccr0 27 = b :=
  fun b => by
    refine ⟨{ start with spr := { start.spr with ccr0 := if b then 0x00700010#32 else 0x00700000#32 } }, calm ?_, ?_⟩ <;>
      cases b <;> decide

theorem witness_TlbEntriesAreWrittenAndRead :
    ∃ s : State, s.settled ∧ bit s.msr 17 = false ∧ (0#5 : BitVec 5).toNat ≤ 1 ∧ (1#5 : BitVec 5).toNat ≤ 1 ∧
      ∀ ws, ws = 0#5 ∨ ws = 1#5 → ¬ Claims.cachesTooEarly (Claims.tlbWritten ws 3#5 4#5 s) s :=
  ⟨paged, rfl, by decide, by decide, by decide, by rintro ws (rfl | rfl) h <;> exact absurd h.1 (by decide)⟩

/-- The first and the last byte of the page, one byte further, and the same entry twice. -/
theorem witness_TlbSearchFindsTheEntry :
    paged.settled ∧ bit paged.msr 17 = false ∧ (∀ j, Claims.translates paged 0x10000000#32 j ↔ j = 5#6) ∧
    (∀ j, Claims.translates paged 0x10000FFF#32 j ↔ j = 5#6) ∧ (∀ j, ¬ Claims.translates paged 0x10001000#32 j) ∧
    ∃ s : State, s.settled ∧ bit s.msr 17 = false ∧ Claims.translates s 0x10000000#32 5#6 ∧
      Claims.translates s 0x10000000#32 63#6 ∧ (5#6 : BitVec 6) ≠ 63#6 := by
  refine ⟨rfl, by decide, ?_, ?_, ?_, { paged with utlb := paged.utlb.set 63 pageEntry }, rfl, by decide, ?_, ?_, by decide⟩ <;>
    unfold Claims.translates <;> decide +kernel

theorem only_entry {s : State} (h : s.utlb = paged.utlb) (hp : s.spr.pid = 7#32) : Claims.onlyEntry s 0x10000000#32 5#6 := by
  have : ∀ j, Claims.translates s 0x10000000#32 j ↔ Claims.translates paged 0x10000000#32 j := by
    intro j
    unfold Claims.translates State.tlbEntry
    rw [h, hp]
    rfl
  refine ⟨fun j => (this j).trans (witness_TlbSearchFindsTheEntry.2.2.1 j), ?_⟩
  unfold State.tlbEntry
  rw [h]
  decide

/-- User mode with zone 00, the same with zone 11, privileged mode with zone 10. -/
theorem witness_PermissionsFollowR233 :
    (∃ s : State, s.settled ∧ Claims.onlyEntry s 0x10000000#32 5#6 ∧ bit s.msr 27 = true ∧ bit s.msr 26 = true ∧
      s.dtlbOld = [] ∧ s.itlbOld = [] ∧ Claims.noAccess s (s.tlbEntry 5#6)) ∧
    (∃ s : State, s.settled ∧ Claims.onlyEntry s 0x10000000#32 5#6 ∧ bit s.msr 27 = true ∧ bit s.msr 26 = true ∧
      s.dtlbOld = [] ∧ s.itlbOld = [] ∧ ¬ Claims.noAccess s (s.tlbEntry 5#6) ∧ Claims.fullAccess s (s.tlbEntry 5#6) ∧
      (s.tlbEntry 5#6).g = false) ∧
    (∃ s : State, s.settled ∧ bit s.msr 27 = true ∧ s.dtlbOld = [] ∧ ¬ Claims.noAccess s (s.tlbEntry 5#6) ∧
      ¬ Claims.fullAccess s (s.tlbEntry 5#6) ∧ (s.tlbEntry 5#6).wr = true) ∧
    (pageEntry.physical 0x10000000#32 ≠ 0x10000000#32) ∧
    ({ pageEntry with rpn := pageEntry.tag } : TlbEntry).physical 0x10000FFF#32 = 0x10000FFF#32 := by
  refine ⟨⟨translatedUser, rfl, only_entry rfl rfl, by decide, by decide, rfl, rfl, ?_⟩,
    ⟨{ translatedUser with spr := { paged.spr with zpr := 0xC0000000#32 } }, rfl, only_entry rfl rfl, by decide, by decide, rfl,
      rfl, ?_, ?_, by decide⟩, ⟨translated, rfl, by decide, rfl, ?_, ?_, by decide⟩, by decide, by decide⟩ <;>
    first | (unfold Claims.noAccess Claims.zone; decide) | (unfold Claims.fullAccess Claims.zone; decide)

theorem virtual_translated : Claims.virtualData translated := ⟨rfl, by decide, rfl, rfl, rfl⟩

/-- `lbz r3,0x1000(r4)`, just after the page, and `dcbi 0,r0` in privileged mode. -/
theorem witness_DataTlbMissIsTaken :
    ∃ s : State, Claims.virtualData s ∧ bit s.msr 17 = false ∧
      (⟨.lbz 3#5 4#5 0x1000#16, s.eaD 4#5 0x1000#16, false⟩ : Claims.Accessing) ∈ Claims.accessing 3#5 4#5 0#5 0#5 0x1000#16 s ∧
      (∀ i, ¬ Claims.translates s (s.eaD 4#5 0x1000#16) i) ∧
      (⟨.dcbi 0#5 0#5, 0#32, true⟩ : Claims.Accessing) ∈ Claims.accessing 3#5 0#5 0#5 0#5 0#16 s ∧
      (∀ i, ¬ Claims.translates s 0#32 i) ∧ s.eaX 0#5 0#5 = 0#32 :=
  ⟨translated, virtual_translated, by decide, by decide, by unfold Claims.translates; decide +kernel, by decide,
   by unfold Claims.translates; decide +kernel, by decide⟩

/-- No access in user mode; in privileged mode a read-only page, and a writable one with U0 while CCR0[U0XE] = 1; a page whose lines no
cache holds. -/
theorem witness_DataStorageInterruptIsTaken :
    (∃ s : State, Claims.virtualData s ∧ Claims.onlyEntry s (s.eaX 0#5 4#5) 5#6 ∧ Claims.noAccess s (s.tlbEntry 5#6) ∧
      (⟨.dcbf 0#5 4#5, s.eaX 0#5 4#5, false⟩ : Claims.Accessing) ∈ Claims.accessing 3#5 0#5 4#5 0#5 0#16 s) ∧
    (∃ s : State, Claims.virtualData s ∧ Claims.onlyEntry s (s.eaX 0#5 4#5) 5#6 ∧ ¬ Claims.noAccess s (s.tlbEntry 5#6) ∧
      (s.tlbEntry 5#6).wr = false ∧ ¬ Claims.fullAccess s (s.tlbEntry 5#6) ∧
      (⟨.dcbi 0#5 4#5, s.eaX 0#5 4#5, true⟩ : Claims.Accessing) ∈ Claims.accessing 3#5 0#5 4#5 0#5 0#16 s ∧
      ocmHolds s.env.dataOcm (s.eaX 0#5 4#5) = false ∧ s.dHit ((s.tlbEntry 5#6).physical (s.eaX 0#5 4#5)) = none ∧
      s.iHit (s.eaX 0#5 4#5) ((s.tlbEntry 5#6).physical (s.eaX 0#5 4#5)) = none) ∧
    ∃ s : State, Claims.virtualData s ∧ Claims.onlyEntry s (s.eaX 0#5 4#5) 5#6 ∧ ¬ Claims.noAccess s (s.tlbEntry 5#6) ∧
      (s.tlbEntry 5#6).wr = true ∧ (s.tlbEntry 5#6).u0 = true ∧ bit s.spr.ccr0 14 = true := by
  refine ⟨⟨translatedUser, ⟨rfl, by decide, rfl, rfl, rfl⟩, only_entry rfl rfl, ?_, by decide⟩,
    ⟨{ translated with utlb := paged.utlb.set 5 { pageEntry with wr := false } }, ⟨rfl, by decide, rfl, rfl, rfl⟩,
      ⟨?_, by decide⟩, ?_, by decide, ?_, by decide, by decide, by decide +kernel, by decide +kernel⟩,
    { translated with utlb := paged.utlb.set 5 { pageEntry with u0 := true }, spr := { paged.spr with ccr0 := 0x00020000#32 } },
    ⟨rfl, by decide, rfl, rfl, rfl⟩, ⟨?_, by decide⟩, ?_, by decide⟩
  · unfold Claims.noAccess Claims.zone; decide
  · unfold Claims.translates; decide +kernel
  · unfold Claims.noAccess Claims.zone; decide
  · unfold Claims.fullAccess Claims.zone; decide
  · unfold Claims.translates; decide +kernel
  · unfold Claims.noAccess Claims.zone; decide

/-- Real mode: the last region has U0. -/
theorem witness_DataStorageInterruptIsTaken_real :
    ∃ s : State, s.settled ∧ bit s.msr 27 = false ∧ bit s.spr.ccr0 14 = true ∧ s.dbg.dbcr0 = 0#32 ∧
      regionBit s.spr.su0r (s.eaX 0#5 4#5) = true ∧
      (⟨.dcbz 0#5 4#5, s.eaX 0#5 4#5, true⟩ : Claims.Accessing) ∈ Claims.accessing 3#5 0#5 4#5 0#5 0#16 s :=
  ⟨{ given [.r 4#5 0xF8000000#32] with spr := { start.spr with ccr0 := 0x00020000#32, su0r := 1#32 } }, rfl, by decide, by decide, rfl,
   by decide, by decide⟩

/-- A caching-inhibited, writable page, no U0. -/
theorem witness_ByteAccessesAreTranslated :
    ∃ s : State, Claims.virtualData s ∧ s.mem.wf = true ∧ s.dfb = none ∧ Claims.onlyEntry s (s.eaX 4#5 5#5) 5#6 ∧
      ¬ Claims.noAccess s (s.tlbEntry 5#6) ∧ (s.tlbEntry 5#6).i = true ∧
      s.dHit ((s.tlbEntry 5#6).physical (s.eaX 4#5 5#5)) = none ∧
      s.memKind ((s.tlbEntry 5#6).physical (s.eaX 4#5 5#5)) = .ram ∧ s.dataMC = false ∧
      s.blocksAnswer ((s.tlbEntry 5#6).physical (s.eaX 4#5 5#5)) 1 ∧ ocmHolds s.env.dataOcm (s.eaX 4#5 5#5) = false ∧
      (s.tlbEntry 5#6).wr = true ∧ (s.tlbEntry 5#6).u0 = false := by
  refine ⟨{ translated with utlb := paged.utlb.set 5 { pageEntry with i := true } }, ⟨rfl, by decide, rfl, rfl, rfl⟩, by decide,
    rfl, ⟨?_, by decide⟩, ?_, by decide, by decide, rfl, rfl, blocks rfl _ _, by decide⟩
  · unfold Claims.translates; decide +kernel
  · unfold Claims.noAccess Claims.zone; decide

theorem witness_AlignmentInterruptIsTaken :
    (∃ s : State, s.calmData ∧ s.dbg.dbcr0 = 0#32 ∧ (s.eaX 0#5 4#5).toNat % 4 ≠ 0 ∧ bit s.msr 17 = false) ∧
    ∃ s : State, s.calmData ∧ s.dbg.dbcr0 = 0#32 ∧ ¬ s.writeBackRegion (s.eaX 0#5 4#5) :=
  ⟨⟨given [.r 4#5 3#32], calm (by decide), rfl, by decide⟩, start, calm_start, rfl,
   fun h => absurd h.1 (by decide)⟩

/-- Line B of the class of address 0 holds block 0. -/
theorem witness_CacheHitsServeWords :
    ∃ s : State, s.calmData ∧ s.writeBackRegion (s.eaX 0#5 4#5) ∧ regionBit s.spr.sler (s.eaX 0#5 4#5) = false ∧
      (s.dHit (s.eaX 0#5 4#5)).isSome = true ∧ (s.eaX 0#5 4#5).toNat % 4 = 0 :=
  ⟨{ start with
      spr := { start.spr with dccr := 0x80000000#32 }
      dcache := start.dcache.set 0 { wayA := DLine.zero, wayB := { DLine.zero with valid := true }, lru := false } },
   calm (by decide), by unfold State.writeBackRegion; decide, by decide⟩

theorem witness_TickCountsTheTimeBaseAndThePit :
    ∃ s : State, s.tmr.frozen = false ∧ ¬ Claims.rising (23 - 4 * (s.tmr.tcr.extractLsb' 24 2).toNat) s.tmr.tbl ∧
      ¬ Claims.rising (15 - 4 * (s.tmr.tcr.extractLsb' 30 2).toNat) s.tmr.tbl :=
  ⟨start, rfl, by unfold Claims.rising Claims.rises; decide, by unfold Claims.rising Claims.rises; decide⟩

/-- The first watchdog time-out with TCR[WRC] = 11 and a PIT event, and the third with TCR[WRC] = 00. -/
theorem witness_TimeoutsSetTheTimerStatus :
    let rises (s : State) : Prop := Claims.rising (15 - 4 * (s.tmr.tcr.extractLsb' 30 2).toNat) s.tmr.tbl
    (∃ s : State, s.tmr.frozen = false ∧ bit s.tmr.tcr 2 = true ∧ bit s.tmr.tsr 1 = false ∧ s.tmr.pit = 1#32 ∧ rises s) ∧
    ∃ s : State, s.tmr.frozen = false ∧ bit s.tmr.tcr 2 = false ∧ bit s.tmr.tcr 3 = false ∧ bit s.tmr.tsr 0 = true ∧
      bit s.tmr.tsr 1 = true ∧ rises s := by
  refine ⟨⟨{ start with tmr := { start.tmr with tbl := 0x0000FFFF#32, tcr := 0x30000000#32, pit := 1#32 } }, rfl, ?_⟩,
    { start with tmr := { start.tmr with tbl := 0x0000FFFF#32, tsr := 0xC0000000#32 } }, rfl, ?_⟩ <;>
    unfold Claims.rising Claims.rises <;> decide

/-- Frozen timers, and the third watchdog time-out with TCR[WRC] = 11. -/
theorem witness_WatchdogResetsAndFrozenTimersStand :
    (∃ s : State, s.tmr.frozen = true) ∧
    ∃ s : State, s.tmr.frozen = false ∧ Claims.rising (15 - 4 * (s.tmr.tcr.extractLsb' 30 2).toNat) s.tmr.tbl ∧
      bit s.tmr.tsr 0 = true ∧ bit s.tmr.tsr 1 = true ∧ s.tmr.tcr.extractLsb' 28 2 = Claims.kindCode .system :=
  ⟨⟨{ start with tmr := { start.tmr with frozen := true } }, rfl⟩,
   { start with tmr := { start.tmr with tbl := 0x0000FFFF#32, tsr := 0xC0000000#32, tcr := 0x30000000#32 } }, rfl,
   by unfold Claims.rising Claims.rises; decide, by decide, by decide, by decide⟩

/-- External mode, internal mode with MSR[DE] = 1, debug-wait mode, and none of them. -/
theorem witness_DebugEventsFollowTheMode :
    (∃ s : State, bit (s.inForce .dbcr0) 0 = true) ∧
    (∃ s : State, bit (s.inForce .dbcr0) 0 = false ∧ bit (s.inForce .dbcr0) 1 = true ∧ bit s.msr 22 = true) ∧
    (∃ s : State, bit (s.inForce .dbcr0) 0 = false ∧ bit (s.inForce .dbcr0) 1 = false ∧ bit s.msr 21 = true) ∧
    ∃ s : State, bit (s.inForce .dbcr0) 0 = false ∧ bit (s.inForce .dbcr0) 1 = true ∧ bit s.msr 22 = false :=
  ⟨⟨{ start with dbg := { start.dbg with dbcr0 := 0x80000000#32 } }, by decide⟩,
   ⟨{ start with dbg := { start.dbg with dbcr0 := 0x40000000#32 }, msr := 0x200#32 }, by decide⟩,
   ⟨given [.msr 0x400#32], by decide⟩, { start with dbg := { start.dbg with dbcr0 := 0x40000000#32 } }, by decide⟩

/-- Internal mode with MSR[DE] = 1 and every event enabled that needs no compare. -/
def debugging : State := { start with dbg := { start.dbg with dbcr0 := 0x4F000000#32 }, msr := 0x200#32 }

/-- The last address of an IAC range and the first one after it, an exact IAC, a DAC and a DVC of a line, each with its word of
events; and the events of internal mode. -/
theorem witness_DebugEventsFollowTheMode_occurrences :
    (∃ s : State, s.settled ∧ bit s.dbg.dbcr0 16 = false ∧ bit s.dbg.dbcr0 17 = false ∧ s.pc = 0x100F#32 ∧
      ∀ k, k < 32 → (bit 0x04000000#32 k = true ↔ Claims.iacEvent s k)) ∧
    (∃ s : State, s.settled ∧ bit s.dbg.dbcr0 16 = false ∧ bit s.dbg.dbcr0 17 = false ∧ s.pc = 0x1010#32 ∧
      ∀ k, ¬ Claims.iacEvent s k) ∧
    (∃ s : State, s.settled ∧ ∀ k, k < 32 → (bit 0x00800000#32 k = true ↔ Claims.dacEvent true 0x205F#32 s k)) ∧
    (∃ s : State, s.settled ∧ bits s.dbg.dbcr1 12 2 ≠ 0#2 ∧ bits s.dbg.dbcr1 14 2 ≠ 0#2 ∧
      Claims.dvcEvent false 0x2040#32 0xABCDFFFF#32 s 7) ∧
    debugging.settled ∧ bit debugging.dbg.dbcr0 0 = false ∧ bit debugging.dbg.dbcr0 1 = true ∧ bit debugging.msr 22 = true ∧
    bit debugging.dbg.dbcr0 4 = true ∧ bit debugging.dbg.dbcr0 5 = true ∧ bit debugging.dbg.dbcr0 6 = true ∧
    bit debugging.dbg.dbcr0 7 = true ∧ debugging.dvcBits = 0#32 ∧ Claims.traps 31#5 (debugging.reg 3#5) (debugging.reg 4#5) ∧
    ∃ s : State, s.settled ∧ bit s.dbg.dbcr0 0 = false ∧ bit s.dbg.dbcr0 1 = true ∧ bit s.msr 22 = true ∧ s.env.ude = true := by
  refine ⟨⟨{ start with pc := 0x100F#32, dbg := { start.dbg with dbcr0 := 0x00A00000#32, iac1 := 0x1008#32, iac2 := 0x1010#32 } },
      rfl, by decide, by decide, rfl, ?_⟩,
    ⟨{ start with pc := 0x1010#32, dbg := { start.dbg with dbcr0 := 0x00A00000#32, iac1 := 0x1008#32, iac2 := 0x1010#32 } },
      rfl, by decide, by decide, rfl, ?_⟩,
    ⟨{ start with dbg := { start.dbg with dbcr1 := 0x2C000000#32, dac1 := 0x205F#32, dac2 := 0x2040#32 } },
      rfl, ?_⟩,
    ⟨{ start with dbg := { start.dbg with dbcr1 := 0x8005C000#32, dac1 := 0x2040#32, dvc1 := 0xABCD0123#32 } }, rfl, by decide,
      by decide, ?_⟩,
    rfl, by decide, rfl, by decide, rfl, rfl, by decide, rfl, rfl, by unfold Claims.traps; decide,
    { debugging with env := { start.env with ude := true } }, rfl, by decide⟩
  · intro k hk
    refine iff_of_eq ?_
    interval_cases k <;> unfold Claims.iacEvent Claims.inRange <;> dsimp only <;> simp [bit]
  · intro k hk
    rcases hk with ⟨-, h⟩ | ⟨-, h⟩ | ⟨-, h⟩ | ⟨-, h⟩ <;> revert h <;> unfold Claims.inRange <;> decide
  · unfold Claims.dacEvent Claims.dataCompare Claims.dacMatches Claims.dvcEnables Claims.inRange; dsimp only; decide +kernel
  · unfold Claims.dvcEvent Claims.dataCompare Claims.dacMatches Claims.dvcEnables Claims.dvcMatches Claims.inRange
    exact ⟨false, by decide⟩

/-- Suppressed events in internal mode with MSR[DE] = 0, the timers running and DBCR0[FT] = 1; a trap in debug-wait mode. -/
theorem witness_DebugEventsFollowTheMode_suppressed :
    (∃ s : State, s.settled ∧ bit s.dbg.dbcr0 0 = false ∧ bit s.dbg.dbcr0 1 = true ∧ bit s.msr 22 = false ∧
      bit s.dbg.dbcr0 5 = true ∧ bit s.dbg.dbcr0 4 = true ∧ bit s.dbg.dbcr0 31 = true ∧ s.dvcBits = 0#32 ∧ s.tmr.frozen = false) ∧
    ∃ s : State, s.settled ∧ bit s.dbg.dbcr0 0 = false ∧ bit s.dbg.dbcr0 1 = false ∧ bit s.dbg.dbcr0 7 = true ∧
      bit s.dbg.dbcr0 6 = false ∧ bit s.msr 21 = true ∧ Claims.traps 31#5 (s.reg 3#5) (s.reg 4#5) :=
  ⟨⟨{ start with dbg := { start.dbg with dbcr0 := 0x4C000001#32 } }, rfl, by decide⟩,
   { given [.msr 0x400#32] with dbg := { start.dbg with dbcr0 := 0x01000000#32 } }, rfl, by decide, by decide, by decide, by decide,
   by decide, by unfold Claims.traps; decide⟩

theorem witness_ResetGivesTheSpecifiedValues :
    ∃ s : State, s.settled ∧ bit s.msr 17 = false ∧ (s.reg 3#5).extractLsb' 28 2 = Claims.kindCode .system :=
  ⟨given [.r 3#5 0x30000000#32], rfl, by decide, by decide⟩

/-- The page of entry 5 twice in the UTLB, the pc in it, prefetching on. -/
def doubled : State :=
  { translated with
    pc := 0x10000000#32, utlb := paged.utlb.set 63 pageEntry, spr := { paged.spr with ccr0 := 0x00000800#32 } }

/-- A fetch ahead at a pc that two entries translate. -/
theorem prefetch_multiple {s : State} (hon : s.run = .running ∧ s.we = false ∧ (s.pfc || s.pfnc) = true) (hs : s.stale = [])
    (hi : s.itlbOld = []) (hr : s.ir = true) (hm : searchEntries s.utlb (s.spr.pid.extractLsb' 0 8) s.pc = .multiple) :
    ∃ n, prefetch s = { s with draws := n, aheadFault := some .multipleTlbHits } := by
  have hc (u : State) (h : u = { s with draws := u.draws, aheadFault := u.aheadFault }) :
      aheadCheck s.pc u = (none, aheadStops .multipleTlbHits u) := by
    have hru : u.ir = true := by rw [h]; exact hr
    have hiu : u.itlbOld = [] := by rw [h]; exact hi
    have hsu : u.stale = [] := by rw [h]; exact hs
    have hmu : searchEntries u.utlb (u.spr.pid.extractLsb' 0 8) s.pc = .multiple := by rw [h]; exact hm
    simp [aheadCheck, hru, hiu, searchTlb_settled _ hsu, hmu]
  have hp : ∃ n o, (prefetchAt 10 (Ahead.start s.pc) s).2 = { s with draws := n, aheadFault := o } := by
    unfold prefetchAt
    dsimp only
    split
    · rw [show (Ahead.start s.pc).ea = s.pc from rfl, hc _ rfl]
      exact ⟨_, _, rfl⟩
    · exact ⟨_, _, rfl⟩
  obtain ⟨n, o, hp⟩ := hp
  refine ⟨n, ?_⟩
  rw [prefetch, if_pos hon]
  simp only [wordAtPc, hp, hc { s with draws := n, aheadFault := o } rfl, aheadStops]

theorem doubled_begun : doubled.begun.run = .running ∧ bit doubled.begun.msr 13 = false ∧
    doubled.begun.aheadFault = some .multipleTlbHits := by
  obtain ⟨n, h⟩ := prefetch_multiple (s := beginStep (ticks (doubled.env.clock.count doubled).1 (doubled.env.clock.count doubled).2))
    (by decide +kernel) rfl rfl (by decide) (by decide +kernel)
  rw [State.begun, h]
  exact ⟨rfl, by show bit 0x30#32 13 = false; decide, rfl⟩

/-- Two entries that translate one address. -/
theorem witness_TlbEntriesHitAndTranslate :
    ∃ (s : State) (i j : BitVec 6), s.settled ∧ i ≠ j ∧ Claims.translates s 0x10000000#32 i ∧ Claims.translates s 0x10000000#32 j ∧
      bit s.msr 27 = true ∧ s.dtlbOld = [] ∧ bit s.msr 26 = true ∧ s.itlbOld = [] := by
  refine ⟨doubled, 5#6, 63#6, rfl, by decide, ?_, ?_, by decide, rfl, by decide, rfl⟩ <;> unfold Claims.translates <;>
    decide +kernel

/-- Frozen timers, one tick, a fetch ahead of a page that two entries translate, a stopped processor, a processor that waits. -/
theorem witness_StepsBeginWithTheTicksAndMayWait :
    (∃ s : State, s.stale = [] ∧ bit s.spr.ccr0 20 = false ∧ bit s.spr.ccr0 21 = false ∧ s.tmr.frozen = true ∧ s.env.clock = .every 1) ∧
    (∃ s : State, s.env.clock = .every 1 ∧ (tick s).stale = [] ∧ bit (tick s).spr.ccr0 20 = false ∧
      bit (tick s).spr.ccr0 21 = false) ∧
    (∃ s : State, s.begun.run = .running ∧ bit s.begun.msr 13 = false ∧ s.begun.aheadFault = some .multipleTlbHits) ∧
    (∃ s : State, s.begun.run = .stopped) ∧
    ∃ s : State, s.begun.run = .running ∧ bit s.begun.msr 13 = true ∧ s.begun.dataMC = false ∧ s.begun.env.ude = false ∧
      s.begun.debugPending = false ∧ criticalRequest s.begun = none ∧ lowRequest s.begun = none :=
  ⟨⟨{ start with tmr := { start.tmr with frozen := true } }, by decide⟩, ⟨start, by decide⟩,
   ⟨doubled, doubled_begun⟩, ⟨{ start with run := .stopped }, by decide⟩, given [.msr 0x40000#32], by decide⟩

/-- A processor that waits with MSR[CE] = MSR[EE] = MSR[ME] = 1, or stands in debug-wait, with requests. -/
def waits (run : RunState) (crit ext : Bool) (tsr : Word) : State :=
  { given [.msr 0x69000#32] with
    run := run
    env := { start.env with critReq := crit, extReq := ext }
    tmr := { start.tmr with tsr := tsr, tcr := 0x0CC00000#32 } }

/-- Critical input, watchdog, external, FIT and PIT requests in the wait state; critical input, external and no request in debug-wait; a
data machine check and the UDE signal in the wait state. -/
theorem witness_StepsBeginWithTheTicksAndMayWait_wake :
    (∀ c e tsr, tsr = 0#32 ∨ tsr = 0x40000000#32 ∨ tsr = 0x04000000#32 ∨ tsr = 0x08000000#32 →
      let b := (waits .running c e tsr).begun
      bit b.dbg.dbcr0 6 = false ∧ b.run = .running ∧ bit b.msr 13 = true ∧ b.dataMC = false ∧ b.env.ude = false ∧
      b.debugPending = false ∧ bit b.msr 14 = true ∧ bit b.msr 16 = true ∧ b.env.critReq = c ∧ b.env.extReq = e ∧ b.tmr.tsr = tsr ∧
      bit b.tmr.tcr 4 = true ∧ bit b.tmr.tcr 5 = true ∧ bit b.tmr.tcr 8 = true) ∧
    (∀ c e, let b := (waits .debugWait c e 0#32).begun
      b.run = .debugWait ∧ bit b.dbg.dbcr0 6 = false ∧ b.env.critReq = c ∧ b.env.extReq = e ∧ bit b.msr 14 = true ∧
      bit b.msr 16 = true) ∧
    (∃ s : State, bit s.begun.dbg.dbcr0 6 = false ∧ s.begun.run = .running ∧ bit s.begun.msr 13 = true ∧ s.begun.dataMC = true ∧
      s.begun.mcDue = true ∧ bit s.begun.msr 19 = true) ∧
    ∃ s : State, bit s.begun.dbg.dbcr0 6 = false ∧ s.begun.run = .running ∧ bit s.begun.msr 13 = true ∧ s.begun.dataMC = false ∧
      s.begun.stale = [] ∧ s.begun.env.ude = true ∧ bit s.begun.dbg.dbcr0 0 = false ∧ bit s.begun.dbg.dbcr0 1 = true ∧
      bit s.begun.msr 22 = true := by
  refine ⟨?_, ?_, ⟨{ waits .running false false 0#32 with dataMC := true, mcDue := true }, by decide⟩,
    { given [.msr 0x40200#32] with
      env := { start.env with ude := true }, dbg := { start.dbg with dbcr0 := 0x40000000#32 } }, by decide⟩
  · rintro c e tsr (rfl | rfl | rfl | rfl) <;> cases c <;> cases e <;> decide
  · intro c e
    cases c <;> cases e <;> decide

/-- The start with a word where it is fetched next. -/
def atStart (w : Nat) : State := start.withFetchWord 32 w

/-- The premises of a step that executes or meets a word, from their decidable parts. -/
theorem undisturbed {s : State} (h : s.run = .running ∧ bit s.msr 13 = false ∧ s.dataMC = false ∧ s.dbg.dbcr0 = 0#32 ∧
    s.env.ude = false ∧ criticalRequest s = none ∧ s.aheadFault = none) : Claims.undisturbed s :=
  let ⟨running, awake, quiet, events, signal, request, ahead⟩ := h
  ⟨running, awake, quiet, events, signal, request, ahead⟩

theorem fetching {s : State} (h : s.stale = [] ∧ bit s.msr 26 = false ∧ regionBit s.spr.sler s.pc = false ∧
    ocmHolds s.env.instrOcm s.pc = false) : Claims.fetching s :=
  let ⟨settled, real, order, offChip⟩ := h
  ⟨⟨settled, real, order⟩, offChip⟩

theorem code {s : State} {w : Word} (hf : Claims.fetching s) (h : s.ccr0Open = false ∧ regionBit s.spr.iccr s.pc = false ∧ s.iHit s.pc s.pc = none ∧
    s.dHit (s.pc &&& 0xFFFFFFFC#32) = none ∧ (s.oldMem = [] ∧ s.oldCode = [] ∧ s.oldLines = []) ∧
    (∀ k, k < 4 → s.memKind ((s.pc &&& 0xFFFFFFFC#32) + BitVec.ofNat 32 k) = .ram) ∧
    w = Claims.wordIn s.mem (s.pc &&& 0xFFFFFFFC#32)) : Claims.codeAt w s :=
  let ⟨closed, inhibited, noLine, clean, nothingOld, ram, word⟩ := h
  ⟨hf, closed, inhibited, noLine, clean, nothingOld, ram, word⟩

theorem calm_code (w : Nat) (h : w = 0x7C0004AC ∨ w = 0x7C0004AD ∨ w = 0) :
    Claims.undisturbed (atStart w).begun ∧ Claims.codeAt (BitVec.ofNat 32 w) (atStart w).begun := by
  obtain rfl | rfl | rfl := h <;> exact ⟨undisturbed (by decide +kernel), code (fetching (by decide +kernel)) (by decide +kernel)⟩

/-- The start with on-chip memory at the pc that holds a `sync`. -/
def onChipCode : State :=
  State.withFetchWord { start with env := { start.env with instrOcm := some ⟨0x1000#32, 4⟩ } } 32 0x7C0004AC

/-- The word of `sync`, in memory and in on-chip memory. -/
theorem witness_StepRunsTheDecodedInstruction :
    (∃ (s : State) (w : Word) (i : Instr), Claims.undisturbed s.begun ∧ lowRequest s.begun = none ∧ Claims.codeAt w s.begun ∧
      decode w = .ok i ∧ ∃ t, exec i { s.begun with busFetch := true } = .next t) ∧
    ∃ (s : State) (w : Word) (i : Instr), Claims.undisturbed s.begun ∧ lowRequest s.begun = none ∧ Claims.codeOnChip w s.begun ∧
      decode w = .ok i ∧ ∃ t, exec i s.begun = .next t :=
  ⟨⟨atStart 0x7C0004AC, 0x7C0004AC#32, .sync, (calm_code _ (.inl rfl)).1, by decide +kernel, (calm_code _ (.inl rfl)).2,
    by decide, _, rfl⟩,
   onChipCode, 0x7C0004AC#32, .sync, undisturbed (by decide +kernel), by decide +kernel,
   ⟨⟨by decide +kernel, by decide +kernel, by decide +kernel⟩, by decide +kernel, by decide +kernel⟩, by decide, _, rfl⟩

/-- The word of `sync` with its reserved bit 31 set, and the word 0; a page without translation, one without access, one without
execute permission; nothing on the bus, with MSR[ME] = 0 and 1. -/
theorem witness_StepMeetsIllegalWords :
    (∃ (s : State) (w : Word), Claims.undisturbed s.begun ∧ Claims.codeAt w s.begun ∧ decode w = .illegal) ∧
    (∃ (s : State) (w : Word), Claims.undisturbed s.begun ∧ Claims.codeAt w s.begun ∧ decode w = .reservedBits ∧
      lowRequest s.begun = none) ∧
    (∃ s : State, Claims.undisturbed s.begun ∧ s.begun.stale = [] ∧ bit s.begun.msr 26 = true ∧ s.begun.itlbOld = [] ∧
      ∀ i, ¬ Claims.translates s.begun s.begun.pc i) ∧
    (∃ s : State, Claims.undisturbed s.begun ∧ s.begun.stale = [] ∧ bit s.begun.msr 26 = true ∧ s.begun.itlbOld = [] ∧
      Claims.onlyEntry s.begun s.begun.pc 5#6 ∧ Claims.noAccess s.begun (s.begun.tlbEntry 5#6)) ∧
    (∃ s : State, Claims.undisturbed s.begun ∧ s.begun.stale = [] ∧ bit s.begun.msr 26 = true ∧ s.begun.itlbOld = [] ∧
      Claims.onlyEntry s.begun s.begun.pc 5#6 ∧ ¬ Claims.noAccess s.begun (s.begun.tlbEntry 5#6) ∧
      (s.begun.tlbEntry 5#6).g = true) ∧
    ∀ b : Bool, ∃ s : State, Claims.undisturbed s.begun ∧ Claims.fetching s.begun ∧ s.begun.ccr0Open = false ∧ s.begun.iHit s.begun.pc s.begun.pc = none ∧
      s.begun.memKind s.begun.pc = .vacant ∧ bit s.begun.msr 19 = b := by
  refine ⟨⟨atStart 0, 0#32, (calm_code _ (.inr (.inr rfl))).1, (calm_code _ (.inr (.inr rfl))).2, by decide⟩,
    ⟨atStart 0x7C0004AD, 0x7C0004AD#32, (calm_code _ (.inr (.inl rfl))).1, (calm_code _ (.inr (.inl rfl))).2, by decide,
      by decide +kernel⟩,
    ⟨translated, undisturbed (by decide +kernel), rfl, by decide +kernel, rfl, ?_⟩,
    ⟨{ translatedUser with pc := 0x10000000#32 }, undisturbed (by decide +kernel), rfl, by decide +kernel, rfl,
      only_entry rfl rfl, ?_⟩,
    ⟨{ translated with pc := 0x10000000#32, utlb := paged.utlb.set 5 { pageEntry with g := true } },
      undisturbed (by decide +kernel), rfl, by decide +kernel, rfl, ⟨?_, by decide +kernel⟩, ?_, by decide +kernel⟩,
    fun b => ⟨{ unanswered with pc := 28#32, msr := if b then 0x1000#32 else 0#32 },
      undisturbed (by cases b <;> decide +kernel), fetching (by cases b <;> decide +kernel), by cases b <;> decide +kernel⟩⟩
  · unfold Claims.translates; decide +kernel
  · unfold Claims.noAccess Claims.zone; decide +kernel
  · unfold Claims.translates; decide +kernel
  · unfold Claims.noAccess Claims.zone; decide +kernel

/-- The requests at a `sync` with MSR[CE] = MSR[EE] = 1: critical input, watchdog, external, FIT, PIT. -/
def requested (crit ext : Bool) (tsr : Word) : State :=
  { atStart 0x7C0004AC with
    msr := 0x28000#32
    env := { start.env with critReq := crit, extReq := ext }
    tmr := { start.tmr with tsr := tsr, tcr := 0x0CC00000#32 } }

/-- `sync` at the start of a step raises no exception; nor does an `mtspr` of CCR0 outside its sequence, which stops. -/
theorem sync_raises (s : State) : Claims.raisesNothing (exec .sync { s.begun with busFetch := true }) := by
  have h : s.begun.retire = .completed := by
    rw [State.begun, fetchSide_prefetch _]
    rfl
  show s.begun.retire ≠ .excepted
  rw [h]
  decide

theorem witness_RequestsAreTakenByPriority_stop :
    Claims.raisesNothing (exec (.mtspr 947#10 3#5) { given [.msr 0x8000#32] with busFetch := true }) ∧
    exec (.mtspr 947#10 3#5) { given [.msr 0x8000#32] with busFetch := true } = .fault .ccr0OutsideSequence := by
  have h : exec (.mtspr 947#10 3#5) { given [.msr 0x8000#32] with busFetch := true } = .fault .ccr0OutsideSequence := by rfl
  exact ⟨by rw [h]; simp [Claims.raisesNothing], h⟩

theorem witness_RequestsAreTakenByPriority :
    let ready (s : State) : Prop := s.begun.run = .running ∧ bit s.begun.msr 13 = false ∧ s.begun.aheadFault = none ∧
      s.begun.dataMC = false ∧ s.begun.dbg.dbcr0 = 0#32 ∧ s.begun.env.ude = false ∧ Claims.codeAt 0x7C0004AC#32 s.begun ∧
      Claims.raisesNothing (exec .sync { s.begun with busFetch := true })
    decode 0x7C0004AC#32 = .ok .sync ∧
    (∃ s, ready s ∧ s.begun.env.critReq = true ∧ bit s.begun.msr 14 = true) ∧
    (∃ s, ready s ∧ (s.begun.env.critReq && bit s.begun.msr 14) = false ∧
      (bit s.begun.tmr.tsr 1 && bit s.begun.tmr.tcr 4 && bit s.begun.msr 14) = true) ∧
    (∃ s, ready s ∧ (s.begun.env.critReq && bit s.begun.msr 14) = false ∧
      (bit s.begun.tmr.tsr 1 && bit s.begun.tmr.tcr 4 && bit s.begun.msr 14) = false ∧ bit s.begun.msr 16 = true ∧
      s.begun.env.extReq = false ∧ (bit s.begun.tmr.tsr 5 && bit s.begun.tmr.tcr 8) = false ∧
      (bit s.begun.tmr.tsr 4 && bit s.begun.tmr.tcr 5) = true) ∧
    ∀ b : Bool, ∃ s : State, s.begun.run = .running ∧ s.begun.aheadFault = none ∧ s.begun.dataMC = true ∧ s.begun.mcDue = true ∧ s.begun.stale = [] ∧
      s.begun.dbg.dbcr0 = 0#32 ∧ bit s.begun.msr 19 = b := by
  have hready (c e : Bool) (tsr : Word) (h : tsr = 0#32 ∨ tsr = 0x40000000#32 ∨ tsr = 0x08000000#32) :
      Claims.undisturbed { (requested c e tsr).begun with msr := 0#32 } ∧ Claims.codeAt 0x7C0004AC#32 (requested c e tsr).begun := by
    obtain rfl | rfl | rfl := h <;> cases c <;> cases e <;>
      exact ⟨undisturbed (by decide +kernel), code (fetching (by decide +kernel)) (by decide +kernel)⟩
  have wait : bit 0x28000#32 13 = false := by decide
  refine ⟨by decide,
    ⟨requested true false 0#32, ⟨rfl, wait, rfl, rfl, rfl, rfl, (hready _ _ _ (.inl rfl)).2, sync_raises _⟩, ?_⟩,
    ⟨requested false false 0x40000000#32,
      ⟨rfl, wait, rfl, rfl, rfl, rfl, (hready _ _ _ (.inr (.inl rfl))).2, sync_raises _⟩, ?_⟩,
    ⟨requested false false 0x08000000#32,
      ⟨rfl, wait, rfl, rfl, rfl, rfl, (hready _ _ _ (.inr (.inr rfl))).2, sync_raises _⟩, ?_⟩,
    fun b => ⟨{ start with dataMC := true, mcDue := true, msr := if b then 0x1000#32 else 0#32 }, by cases b <;> decide⟩⟩ <;>
    decide +kernel

/-- The start with instruction fetches cacheable, and the block of the pc in way A of the instruction cache (all zero, as memory). -/
def fetchCached (hit : Bool) : State :=
  { start with
    spr := { start.spr with iccr := 0x80000000#32 }
    icache := start.icache.set 128
      { wayA := { ILine.zero with valid := hit, tag := 4#22 }, wayB := ILine.zero, lru := false } }

/-- On-chip memory; a fetch inside Sequence 1; non-cacheable storage, with an older word left; a hit; a miss. -/
theorem witness_FetchesReadMemoryAndTheInstructionCache :
    (Claims.fetchesReal onChipCode ∧ ocmHolds onChipCode.env.instrOcm onChipCode.pc = true) ∧
    (∃ s : State, Claims.fetching s ∧ s.ccr0Open = true ∧ s.iHit s.pc s.pc = none) ∧
    (∃ s : State, Claims.fetching s ∧ (∀ k, k < 4 → s.memKind ((s.pc &&& 0xFFFFFFFC#32) + BitVec.ofNat 32 k) = .ram) ∧
      regionBit s.spr.iccr s.pc = false ∧ s.ccr0Open = false ∧
      s.iHit s.pc s.pc = none ∧ s.dHit (s.pc &&& 0xFFFFFFFC#32) = none ∧ s.oldMem ≠ []) ∧
    (∃ s : State, Claims.fetching s ∧ (∀ a, blockOf a = blockOf s.pc → s.memKind a = .ram) ∧ regionBit s.spr.iccr s.pc = true ∧
      Claims.noOldCode s ∧
      s.dHit (s.pc &&& 0xFFFFFFFC#32) = none ∧ s.iHit s.pc s.pc = some .a ∧
      ((s.iClass (classIndex s.pc)).line .a).little = false ∧
      Claims.lineWordAt s .a = Claims.wordIn s.mem (s.pc &&& 0xFFFFFFFC#32)) ∧
    ∃ s : State, Claims.fetching s ∧ (∀ a, blockOf a = blockOf s.pc → s.memKind a = .ram) ∧ regionBit s.spr.iccr s.pc = true ∧
      bit s.spr.ccr0 23 = false ∧
      s.ccr0Open = false ∧ Claims.noOldCode s ∧ s.iHit s.pc s.pc = none ∧ ∀ a, blockOf a = blockOf s.pc → s.dHit a = none := by
  refine ⟨⟨⟨by decide +kernel, by decide +kernel, by decide +kernel⟩, by decide +kernel⟩,
    ⟨{ start with ccr0Open := true }, fetching (by decide), by decide⟩,
    ⟨{ start with oldMem := [(0x400, 1#32)] }, fetching (by decide), by decide⟩,
    ⟨fetchCached true, fetching (by decide), fun a _ => ram rfl a, by decide, ⟨rfl, rfl, rfl⟩, by decide +kernel⟩,
    fetchCached false, fetching (by decide), fun a _ => ram rfl a, by decide, by decide, rfl, ⟨rfl, rfl, rfl⟩,
    by decide +kernel, fun a _ => ?_⟩
  have h : ∀ i, (start.dClass i).wayA.valid = false ∧ (start.dClass i).wayB.valid = false := by
    unfold State.dClass; decide +kernel
  show (start.dClass (classIndex a)).find (dTag a) = none
  simp [DClass.find, h]

theorem witness_EncodeWritesBackWhatDecodeReads : ∃ (w : Word) (i : Instr), decode w = .ok i :=
  ⟨0x7C642A15#32, .add 3#5 4#5 5#5 false true, by decide⟩

/-- A step from the state after reset. -/
theorem witness_StepsKeepTheInvariant :
    ∃ s t : State, s.inv ∧ s.linesDistinct ∧ step s = .next t := by
  obtain ⟨t, h⟩ := exists_next (o := step (State.reset.withFetchWord 32 0x7C0004AC)) (by decide +kernel)
  refine ⟨_, t, ⟨⟨by decide +kernel, by decide +kernel, by decide +kernel⟩, by decide +kernel⟩, fun i hv => ?_, h⟩
  revert hv
  revert i
  unfold State.dClass
  decide +kernel

/-- `mtspr USPRG0` in user mode. -/
theorem witness_UserModeKeepsPrivilegedState :
    ∃ (i : Instr) (s t : State), s.settled ∧ bit s.msr 17 = true ∧ s.noDebug ∧ s.quietBus ∧ exec i s = .next t ∧
      t.retire = .completed :=
  ⟨.mtspr 256#10 3#5, user, _, rfl, by decide, ⟨rfl, rfl, rfl, rfl⟩, rfl, rfl, rfl⟩

end Sys2Proof.Tests
end

/-! ## The forms and uses that stop the machine

What decides each stop (the mode, the numbers of the special-purpose registers, the bits that a write of CCR0, DCCR or ICCR changes,
the entry that `tlbwe` writes), each stop, and the obligation that gathers them. -/

namespace Sys2Proof.Machine

/-! ### The mode -/

theorem user_settled {s : State} (hs : s.settled) : s.user = bit s.msr 17 := by
  rw [State.user, inForce_settled hs]
  rfl

theorem privileged_eq {s : State} (hs : s.settled) (hp : bit s.msr 17 = false) (k : Out) : privileged s k = k := by
  simp [privileged, user_settled hs, hp]

theorem privilegedSpr_user_eq_false {sprn : BitVec 10} {s : State} (h : Claims.mayAccess sprn s) :
    (privilegedSpr sprn && s.user) = false := by
  obtain ⟨hs, hp⟩ := h
  rw [user_settled hs]
  cases hn : privilegedSpr sprn
  · rfl
  · simpa using hp hn

theorem mayAccess_of_privileged {s : State} (hs : s.settled) (hp : bit s.msr 17 = false) (sprn : BitVec 10) :
    Claims.mayAccess sprn s := ⟨hs, fun _ => hp⟩

/-! ### Loads and stores with update (R422) -/

theorem exec_updateLoads (rD rA rB : Reg) (d : BitVec 16) (s : State) :
    ∀ c ∈ Claims.updateLoads rD rA rB d s, ∃ f, exec c.instr s = loadUpdate rD rA c.ea c.width f s := by
  simp only [Claims.updateLoads, List.forall_mem_cons]
  exact ⟨⟨_, rfl⟩, ⟨_, rfl⟩, ⟨_, rfl⟩, ⟨_, rfl⟩, ⟨_, rfl⟩, ⟨_, rfl⟩, ⟨_, rfl⟩, ⟨_, rfl⟩, List.forall_mem_nil _⟩

theorem exec_updateStores (rS rA rB : Reg) (d : BitVec 16) (s : State) :
    ∀ c ∈ Claims.updateStores rS rA rB d s, exec c.instr s = storeUpdate rA c.ea c.width (s.reg rS) s := by
  simp only [Claims.updateStores, List.forall_mem_cons]
  exact ⟨rfl, rfl, rfl, rfl, rfl, rfl, List.forall_mem_nil _⟩

theorem updateLoads_refused {rD rA : Reg} (h : rA = 0#5 ∨ rA = rD) (rB : Reg) (d : BitVec 16) (s : State) :
    ∀ c ∈ Claims.updateLoads rD rA rB d s, exec c.instr s = .refused .invalidUpdateForm := by
  intro c hc
  obtain ⟨f, hf⟩ := exec_updateLoads rD rA rB d s c hc
  rw [hf, loadUpdate, if_pos h]

theorem updateStores_refused {rA : Reg} (h : rA = 0#5) (rS rB : Reg) (d : BitVec 16) (s : State) :
    ∀ c ∈ Claims.updateStores rS rA rB d s, exec c.instr s = .refused .invalidUpdateForm := by
  intro c hc
  rw [exec_updateStores rS rA rB d s c hc, storeUpdate, if_pos h]

/-! ### Special-purpose registers that are not there or lack the access (10_state.md R135) -/

/-- The numbers that some special-purpose register has. -/
def implementedSprs : List Nat := (Claims.plainSprs ++ Claims.otherSprs ++ Claims.userSprgs).map Prod.fst

theorem not_mem_implementedSprs {n : Nat}
    (h : ∀ f, (n, f) ∉ Claims.plainSprs ++ Claims.otherSprs ++ Claims.userSprgs) : n ∉ implementedSprs := by
  intro hn
  obtain ⟨⟨m, f⟩, hf, rfl⟩ := List.mem_map.mp hn
  exact h f hf

/-- Every arm of `readSpr` but the last is for an implemented number. -/
theorem readSpr_eq_none {n : Nat} (h : n ∉ implementedSprs) (s : State) : readSpr n s = none := by
  unfold readSpr
  split
  case h_51 => rfl
  all_goals exact absurd (by decide) h

/-- Every arm of `writeSpr` but the last is for an implemented number. -/
theorem writeSpr_eq_none {n : Nat} (h : n ∉ implementedSprs) (v : Word) (s : State) : writeSpr n v s = none := by
  unfold writeSpr
  split
  case h_47 => rfl
  all_goals exact absurd (by decide) h

theorem writeSpr_readOnly {n : Nat} (h : n ∈ [260, 261, 262, 263, 287, 979]) (v : Word) (s : State) :
    writeSpr n v s = none := by
  simp only [List.mem_cons, List.not_mem_nil, or_false] at h
  rcases h with rfl | rfl | rfl | rfl | rfl | rfl <;> rfl

theorem readSpr_writeOnly {n : Nat} (h : n = 284 ∨ n = 285) (s : State) : readSpr n s = none := by
  rcases h with rfl | rfl <;> rfl

/-- MCSR and CCR1 are registers of the Virtex-4 alone (00_scope.md R2). -/
theorem readSpr_virtex4 {n : Nat} {s : State} (h : n = 572 ∨ n = 888) (hv : s.virtex4 = false) : readSpr n s = none := by
  rcases h with rfl | rfl <;> simp [readSpr, hv]

theorem writeSpr_virtex4 {n : Nat} {s : State} (h : n = 572 ∨ n = 888) (hv : s.virtex4 = false) (v : Word) :
    writeSpr n v s = none := by
  rcases h with rfl | rfl <;> simp [writeSpr, hv]

/-- Only writes of CCR0, DCCR and ICCR can be programming errors. -/
theorem sprFault_eq_none {n : Nat} (h : n ∉ [947, 1018, 1019]) (v : Word) (s : State) : sprFault n v s = none := by
  unfold sprFault
  split
  case h_4 => rfl
  all_goals exact absurd (by decide) h

theorem mfspr_refused {sprn : BitVec 10} {s : State} (ha : Claims.mayAccess sprn s) (hr : readSpr sprn.toNat s = none)
    (rD : Reg) : exec (.mfspr rD sprn) s = .refused .unsupportedSpr := by
  change execMfspr rD sprn s = _
  simp [execMfspr, privilegedSpr_user_eq_false ha, hr]

theorem mtspr_fault {sprn : BitVec 10} {rS : Reg} {s : State} {f : Fault} (ha : Claims.mayAccess sprn s)
    (hf : sprFault sprn.toNat (s.reg rS) s = some f) : exec (.mtspr sprn rS) s = .fault f := by
  change execMtspr sprn rS s = _
  simp [execMtspr, privilegedSpr_user_eq_false ha, hf]

theorem mtspr_refused {sprn : BitVec 10} {rS : Reg} {s : State} (ha : Claims.mayAccess sprn s)
    (hf : sprn.toNat ∉ [947, 1018, 1019]) (hw : writeSpr sprn.toNat (s.reg rS) s.advance = none) :
    exec (.mtspr sprn rS) s = .refused .unsupportedSpr := by
  change execMtspr sprn rS s = _
  simp [execMtspr, privilegedSpr_user_eq_false ha, sprFault_eq_none hf, hw]

theorem mftb_refused {tbrn : BitVec 10} (hl : tbrn ≠ 268#10) (hu : tbrn ≠ 269#10) (rD : Reg) (s : State) :
    exec (.mftb rD tbrn) s = .refused .unsupportedTbr := by
  change execMftb rD tbrn s = _
  rw [execMftb, if_neg hl, if_neg hu]

/-! ### Registers whose write can be an error: CCR0, DCCR, ICCR -/

theorem word_ne_zero_iff {w : Word} : w ≠ 0#32 ↔ ∃ k, k < 32 ∧ bit w k = true := by
  constructor
  · intro h
    by_contra hn
    exact h (word_ext fun k hk => by simpa using fun hb => hn ⟨k, hk, hb⟩)
  · rintro ⟨k, -, hb⟩ rfl
    simp at hb

theorem newlyCacheable_iff {v old : Word} : Claims.newlyCacheable v old ↔ v &&& ~~~old ≠ 0#32 := by
  simp [Claims.newlyCacheable, word_ne_zero_iff, bit_not]

/-- A mask whose 1s are the bits `ks` finds a change of one of them. -/
theorem changed_iff {mask : Word} {ks : List Nat} (hmask : ∀ k, k < 32 → (bit mask k = true ↔ k ∈ ks))
    (hks : ∀ k ∈ ks, k < 32) {old v : Word} :
    (old ^^^ v) &&& mask ≠ 0#32 ↔ ∃ k ∈ ks, bit v k ≠ bit old k := by
  simp only [word_ne_zero_iff, bit_and, bit_xor, Bool.and_eq_true, Bool.xor_iff_ne]
  constructor
  · rintro ⟨k, hk, hne, hm⟩
    exact ⟨k, (hmask k hk).mp hm, hne.symm⟩
  · rintro ⟨k, hk, hne⟩
    exact ⟨k, hks k hk, hne.symm, (hmask k (hks k hk)).mpr hk⟩

/-- A change of CCR0[IPP] (bits 10 and 11) or CCR0[FWOA] (bit 23), the fields of Sequence 1 (70_reset_and_hazards.md R950). -/
theorem sequence1_changed_iff {old v : Word} :
    (old ^^^ v) &&& 0x00300100#32 ≠ 0#32 ↔ bit v 10 ≠ bit old 10 ∨ bit v 11 ≠ bit old 11 ∨ bit v 23 ≠ bit old 23 := by
  rw [changed_iff (ks := [10, 11, 23]) (by decide) (by decide)]
  simp

/-- A change of CCR0[DPP1] (bit 9) or CCR0[U0XE] (bit 14), the fields of Sequence 2 (R950). -/
theorem sequence2_changed_iff {old v : Word} :
    (old ^^^ v) &&& 0x00420000#32 ≠ 0#32 ↔ bit v 9 ≠ bit old 9 ∨ bit v 14 ≠ bit old 14 := by
  rw [changed_iff (ks := [9, 14]) (by decide) (by decide)]
  simp

theorem ccr0Unsafe_iff {v : Word} {s : State} : s.ccr0Unsafe v = true ↔ ¬ Claims.ccr0Sequence v s := by
  simp only [State.ccr0Unsafe, Claims.ccr0Sequence, State.ce, State.ee, Bool.or_eq_true, Bool.and_eq_true, Bool.not_iff_not,
    Bool.not_eq_true, bne_iff_ne, sequence1_changed_iff, sequence2_changed_iff, and_assoc]
  simp only [not_and_or, Classical.not_imp]

/-- `State.dcacheInvalidated` compares the ready bits of all 256 classes at once. -/
theorem dcacheInvalidated_iff {s : State} : s.dcacheInvalidated = true ↔ Claims.dcacheInvalidated s := by
  rw [State.dcacheInvalidated, beq_iff_eq]
  constructor
  · intro h i
    rw [h, BitVec.getLsbD_allOnes, decide_eq_true i.isLt]
  · intro h
    refine BitVec.eq_of_getLsbD_eq fun k hk => ?_
    have hclass : s.dcacheReady.getLsbD k = true := by simpa [Nat.mod_eq_of_lt hk] using h (BitVec.ofNat 8 k)
    rw [hclass, BitVec.getLsbD_allOnes, decide_eq_true hk]

theorem sprFault_ccr0 {v : Word} {s : State} (h : ¬ Claims.ccr0Sequence v s) :
    sprFault 947 v s = some .ccr0OutsideSequence := if_pos (ccr0Unsafe_iff.mpr h)

theorem sprFault_dccr {v : Word} {s : State} (h : Claims.newlyCacheable v s.spr.dccr)
    (hd : ¬ Claims.dcacheInvalidated s) : sprFault 1018 v s = some .cacheNotInvalidated := by
  rw [← dcacheInvalidated_iff] at hd
  simp [sprFault, newlyCacheable_iff.mp h, hd]

theorem sprFault_iccr {v : Word} {s : State} (h : Claims.newlyCacheable v s.spr.iccr) (hi : s.icacheReady = false) :
    sprFault 1019 v s = some .cacheNotInvalidated := by
  simp [sprFault, newlyCacheable_iff.mp h, hi]

/-! ### TLB entries (46_cache_tlb.md R715, R718) -/

theorem tlb_wordSelect_refused {s : State} {ws : BitVec 5} (hs : s.settled) (hp : bit s.msr 17 = false) (hws : 1 < ws.toNat)
    (rD rA : Reg) :
    exec (.tlbwe rD rA ws) s = .refused .invalidWordSelect ∧ exec (.tlbre rD rA ws) s = .refused .invalidWordSelect := by
  have h1 : ws ≠ 1#5 := by rintro rfl; exact absurd hws (by decide)
  have h0 : ws ≠ 0#5 := by rintro rfl; exact absurd hws (by decide)
  change execTlbwe rD rA ws s = _ ∧ execTlbre rD rA ws s = _
  simp [execTlbwe, execTlbre, privileged_eq hs hp, h1, h0]

theorem cachesTooEarly_iff {s : State} {e : TlbEntry} : s.cachesTooEarly e = true ↔ Claims.cachesTooEarly e s := by
  simp only [State.cachesTooEarly, Claims.cachesTooEarly, ← dcacheInvalidated_iff, Bool.and_eq_true, Bool.not_eq_true',
    ← Bool.not_eq_true, and_assoc]

theorem putTlbEntry_fault {s : State} {e : TlbEntry} (h : Claims.cachesTooEarly e s) (i : BitVec 6) :
    putTlbEntry i e s = .fault .cacheNotInvalidated := if_pos (cachesTooEarly_iff.mpr h)

/-- With WS = 0 or 1 `tlbwe` puts the entry that `Claims.tlbWritten` gives; marking the entry as written comes first, for WS = 0. -/
theorem exec_tlbwe {s : State} {ws : BitVec 5} (hs : s.settled) (hp : bit s.msr 17 = false) (hws : ws.toNat ≤ 1)
    (rS rA : Reg) :
    exec (.tlbwe rS rA ws) s =
      putTlbEntry (s.tlbIndex rA) (Claims.tlbWritten ws rS rA s) (if ws = 1#5 then s else s.markTlb (s.tlbIndex rA)) := by
  have h : ws = 0#5 ∨ ws = 1#5 := by bv_omega
  change execTlbwe rS rA ws s = _
  rw [execTlbwe, privileged_eq hs hp]
  rcases h with rfl | rfl <;> rfl

theorem tlbwe_fault {s : State} {ws : BitVec 5} {rS rA : Reg} (hs : s.settled) (hp : bit s.msr 17 = false)
    (hws : ws.toNat ≤ 1) (h : Claims.cachesTooEarly (Claims.tlbWritten ws rS rA s) s) :
    exec (.tlbwe rS rA ws) s = .fault .cacheNotInvalidated := by
  rw [exec_tlbwe hs hp hws]
  split
  · exact putTlbEntry_fault h _
  · exact putTlbEntry_fault (s := s.markTlb _) h _

/-! ### The obligation -/

/-- Settles O26: it holds. Each clause is one of the stops above. -/
theorem invalidFormsStop : Obligations.InvalidFormsStop := by
  unfold Obligations.InvalidFormsStop
  intro rD rA rB ws d sprn tbrn s
  refine ⟨fun h => updateLoads_refused h rB d s, fun h => updateStores_refused h rD rB d s, ?unimplemented, ?writeOnly,
    ?readOnly, ?virtex4, fun hl hu => mftb_refused hl hu rD s, fun hs hp hws => tlb_wordSelect_refused hs hp hws rD rA, ?errors⟩
  case unimplemented =>
    intro ha h
    have hn := not_mem_implementedSprs h
    have hf : sprn.toNat ∉ [947, 1018, 1019] := fun hm =>
      hn ((by decide : ∀ n ∈ [947, 1018, 1019], n ∈ implementedSprs) _ hm)
    exact ⟨mfspr_refused ha (readSpr_eq_none hn s) rD, mtspr_refused ha hf (writeSpr_eq_none hn _ _)⟩
  case writeOnly =>
    intro ha h
    have hn : sprn.toNat = 284 ∨ sprn.toNat = 285 := h.imp (congrArg BitVec.toNat) (congrArg BitVec.toNat)
    exact mfspr_refused ha (readSpr_writeOnly hn s) rD
  case readOnly =>
    intro ha h
    have hn : sprn.toNat ∈ [260, 261, 262, 263, 287, 979] := List.mem_map_of_mem (f := BitVec.toNat) h
    have hf : sprn.toNat ∉ [947, 1018, 1019] :=
      (by decide : ∀ n ∈ [260, 261, 262, 263, 287, 979], n ∉ [947, 1018, 1019]) _ hn
    exact mtspr_refused ha hf (writeSpr_readOnly hn _ _)
  case virtex4 =>
    intro ha h hv
    have hn : sprn.toNat = 572 ∨ sprn.toNat = 888 := h.imp (congrArg BitVec.toNat) (congrArg BitVec.toNat)
    have hf : sprn.toNat ∉ [947, 1018, 1019] := by rcases h with rfl | rfl <;> decide
    exact ⟨mfspr_refused ha (readSpr_virtex4 hn hv) rD, mtspr_refused ha hf (writeSpr_virtex4 (s := s.advance) hn hv _)⟩
  case errors =>
    intro hs hp
    have ha := mayAccess_of_privileged hs hp
    exact ⟨fun h => mtspr_fault (ha _) (sprFault_ccr0 h),
      fun h hd => mtspr_fault (ha _) (sprFault_dccr h hd),
      fun h hi => mtspr_fault (ha _) (sprFault_iccr h hi),
      fun hws h => tlbwe_fault hs hp hws h⟩

end Sys2Proof.Machine

/-! ## What every step keeps

For each outcome of an instruction and of a step, that its next state keeps what `Kept` of Laws/Kept.lean says: canonical memories, an
aligned pc, PVR, and a data cache without a block held twice. A lemma per operation, then per shape of instruction, then one for `exec`
and one for `step`. -/

namespace Sys2Proof.Machine

/-! ### Results and outcomes -/

/-- A part of an instruction whose states, where it completes and where it ends the instruction, keep what `s` has. -/
def Res.Keeps {α : Type} (s : State) : Res α → Prop
  | .ok _ t => Kept s t
  | .stop t => Kept s t
  | .fault _ => True

/-- An outcome whose next state, if there is one, keeps what `s` has. -/
def KeepsOut (s : State) : Out → Prop
  | .next t => Kept s t
  | .fault _ => True
  | .refused _ => True

theorem KeepsOut.after {s t : State} {o : Out} (h : Kept s t) (ho : KeepsOut t o) : KeepsOut s o := by
  cases o with
  | next u => exact h.trans ho
  | fault f => trivial
  | refused r => trivial

theorem Res.Keeps.after {α : Type} {s t : State} {r : Res α} (h : Kept s t) (hr : r.Keeps t) : r.Keeps s := by
  cases r with
  | ok a u => exact h.trans hr
  | stop u => exact h.trans hr
  | fault f => trivial

theorem Res.Effect.keeps {α : Type} {s : State} {r : Res α} (h : r.Effect s) : r.Keeps s := by
  cases r with
  | ok a t => exact DataSide.kept h
  | stop t => exact Ended.kept h
  | fault f => trivial

theorem Res.DataSide.keeps {α : Type} {s : State} {r : Res α} (h : r.DataSide s) : r.Keeps s := h.effect.keeps

/-- The rest of an instruction after a part of it. -/
theorem Res.Keeps.andThen {α : Type} {s : State} {r : Res α} {k : α → State → Out} (h : r.Keeps s)
    (hk : ∀ a t, KeepsOut t (k a t)) : KeepsOut s (r.andThen k) := by
  cases r with
  | ok a t => exact (hk a t).after h
  | stop t => exact h
  | fault f => trivial

theorem keepsOut_done {s t : State} (h : Kept s t) : KeepsOut s (done t) := h.trans (kept_advance t)

theorem keepsOut_trapTo (e : Exc) {s t : State} (h : Kept s t) : KeepsOut s (trapTo e t) :=
  h.trans (kept_takeInterrupt e t.pc t)

theorem keepsOut_privileged {s : State} {k : Out} (h : KeepsOut s k) : KeepsOut s (privileged s k) := by
  unfold privileged
  split
  · exact keepsOut_trapTo _ (.refl s)
  · exact h

theorem keepsOut_finish (s t : State) : KeepsOut t (finish s t) := by
  rcases finish_cases s t with e | e | e <;> rw [e]
  · exact keepsOut_done (.refl t)
  · exact keepsOut_done (dataSide_drawBool t).kept
  · exact keepsOut_trapTo _ (.of_eq (sameParts_refl t) rfl)

theorem keeps_toRes {s : State} {d : Debugged} (h : Kept s d.state) : d.toRes.Keeps s := by
  cases d with
  | goOn t => exact h
  | halted t => exact h

/-! ### Register results -/

theorem kept_drawWord (s : State) : Kept s (drawWord s).2 := .of_eq (sameParts_refl s) rfl

theorem kept_setReg (s : State) (r : Reg) (v : Word) : Kept s (s.setReg r v) := .of_eq (sameParts_refl s) rfl

theorem kept_setCa (s : State) (v : Bool) : Kept s (s.setCa v) := .of_eq (sameParts_refl s) rfl

theorem kept_ovIf (s : State) (oe v : Bool) : Kept s (s.ovIf oe v) := by
  cases oe
  · exact .refl s
  · exact .of_eq (sameParts_refl s) rfl

theorem kept_recordIf (s : State) (rc : Bool) (res : Word) : Kept s (s.recordIf rc res) := by
  cases rc
  · exact .refl s
  · exact .of_eq (sameParts_refl s) rfl

theorem kept_writeLogic (s : State) (r : Reg) (v : Word) (rc : Bool) : Kept s (s.writeLogic r v rc) :=
  (kept_setReg s r v).trans (kept_recordIf _ rc v)

theorem kept_writeShift (s : State) (r : Reg) (v : Word) (ca rc : Bool) : Kept s (s.writeShift r v ca rc) :=
  ((kept_setReg s r v).trans (kept_setCa _ ca)).trans (kept_recordIf _ rc v)

/-- A result with OV and CR0: of a sum, of a product, of a quotient, of an accumulation. -/
theorem kept_writeOv (s : State) (r : Reg) (v res : Word) (oe ov rc : Bool) :
    Kept s (((s.setReg r v).ovIf oe ov).recordIf rc res) :=
  ((kept_setReg s r v).trans (kept_ovIf _ oe ov)).trans (kept_recordIf _ rc res)

theorem kept_writeSumCa (s : State) (r : Reg) (x : Sum) (oe rc : Bool) : Kept s (s.writeSumCa r x oe rc) :=
  (((kept_setReg s r x.res).trans (kept_setCa _ x.ca)).trans (kept_ovIf _ oe x.ov)).trans (kept_recordIf _ rc x.res)

theorem kept_divideFree (s : State) (r : Reg) (oe rc : Bool) : Kept s (s.divideFree r oe rc) := by
  have h : Kept s (((drawWord s).2.setReg r (drawWord s).1).ovIf oe true) :=
    ((kept_drawWord s).trans (kept_setReg _ r _)).trans (kept_ovIf _ oe true)
  cases rc
  · exact h
  · exact h.trans (.of_eq (sameParts_refl _) rfl)

theorem keepsOut_divw (rD rA rB : Reg) (oe rc : Bool) (s : State) : KeepsOut s (execDivw rD rA rB oe rc s) := by
  unfold execDivw
  split
  · exact keepsOut_done (kept_divideFree _ _ _ _)
  · exact keepsOut_done (kept_writeOv _ _ _ _ _ _ _)

theorem keepsOut_divwu (rD rA rB : Reg) (oe rc : Bool) (s : State) : KeepsOut s (execDivwu rD rA rB oe rc s) := by
  unfold execDivwu
  split
  · exact keepsOut_done (kept_divideFree _ _ _ _)
  · exact keepsOut_done (kept_writeOv _ _ _ _ _ _ _)

/-! ### Branches, traps and returns -/

theorem kept_freezeTimers (s : State) : Kept s (freezeTimers s) := .of_eq (sameParts_refl s) rfl

theorem keeps_branchTaken (s : State) : (branchTaken s).Keeps s := by
  unfold branchTaken
  split
  · split
    · exact kept_freezeTimers s
    · exact keeps_toRes (kept_debugEventWith _ _ _ _ _)
  · exact Kept.refl s

theorem aligned_next {s : State} (h : s.aligned) : (s.pc + 4#32).extractLsb' 0 2 = 0#2 := aligned_add h (by decide)

/-- A branch's target is aligned if its displacement is. -/
theorem aligned_branchTarget {s : State} (h : s.aligned) (aa : Bool) {disp : Word} (hd : disp.extractLsb' 0 2 = 0#2) :
    (branchTarget aa disp s.pc).extractLsb' 0 2 = 0#2 := by
  cases aa
  · exact aligned_add h hd
  · exact hd

theorem keepsOut_b (li : BitVec 24) (aa lk : Bool) (s : State) : KeepsOut s (execB li aa lk s) :=
  (keeps_branchTaken s).andThen fun _ t =>
    .of_pc (sameParts_refl t) fun h => aligned_branchTarget h aa (aligned_append 24 li)

/-- A conditional branch to targets that are aligned where the pc is. -/
theorem keepsOut_condBranch (bo bi : BitVec 5) (lk : Bool) {target : State → Word}
    (ht : ∀ t : State, t.aligned → (target t).extractLsb' 0 2 = 0#2) (s : State) :
    KeepsOut s (condBranch bo bi lk target s) := by
  unfold condBranch
  split
  · exact (keeps_branchTaken s).andThen fun _ t => .of_pc (sameParts_refl t) (ht t)
  · exact .of_pc (sameParts_refl s) aligned_next

theorem keepsOut_trapTaken (s : State) : KeepsOut s (trapTaken s) := by
  unfold trapTaken
  split
  · split
    · exact keepsOut_trapTo _ (kept_recordDebug _ _ s)
    · have h := kept_debugEventWith s.de (!s.edm || s.idm) (oneBit 3 true) s.pc s
      split <;> (rename_i e; rw [e] at h)
      · exact keepsOut_trapTo _ h
      · exact h
  · exact keepsOut_trapTo _ (.refl s)

theorem keepsOut_trapIf (c : Bool) (s : State) : KeepsOut s (if c then trapTaken s else done s) := by
  cases c
  · exact keepsOut_done (.refl s)
  · exact keepsOut_trapTaken s

theorem keepsOut_sc (s : State) : KeepsOut s (execSc s) := by
  have h := kept_interruptEntry .systemCall (s.pc + 4#32) s
  unfold execSc
  simp only []
  split
  · split
    · exact h.trans (kept_freezeTimers _)
    · exact h
  · exact h.trans (kept_debugEventWith _ _ _ _ _)

theorem keepsOut_returnChecked (target msr : Word) (s : State) : KeepsOut s (returnChecked target msr s) := by
  unfold returnChecked
  split
  · trivial
  · exact kept_returnTo target msr s

/-! ### Moves to and from special registers -/

theorem kept_writeDbcr0 (v : Word) (s : State) : Kept s (writeDbcr0 v s) := by
  unfold writeDbcr0
  split
  · exact kept_resetProcessor _ _ _
  · exact kept_writeCtx _ _ _

theorem kept_writeCcr0 (v : Word) (s : State) : Kept s (writeCcr0 v s) :=
  (kept_writeCtx s .ccr0 v).trans (.of_eq (sameParts_refl _) rfl)

theorem kept_writeTbl (v : Word) (s : State) : Kept s (writeTbl v s) :=
  (Kept.of_eq (t := { s with tmr := { s.tmr with tbl := v } }) (sameParts_refl s) rfl).trans (kept_tblChanged s.tmr.tbl v _)

/-- No number of a special-purpose register writes PVR, which is read-only (10_state.md R72). -/
theorem kept_writeSpr {n : Nat} {v : Word} {s t : State} (h : writeSpr n v s = some t) : Kept s t := by
  unfold writeSpr at h
  split at h
  case h_15 => cases h; exact kept_writeTbl v s
  case h_17 | h_18 =>
    split at h
    · cases h; exact .of_eq (sameParts_refl s) rfl
    · cases h
  case h_19 | h_20 | h_22 | h_23 | h_24 | h_25 | h_26 | h_27 | h_28 | h_29 | h_30 | h_41 | h_42 | h_43 | h_44 | h_45 | h_46 =>
    cases h; exact kept_writeCtx _ _ _
  case h_21 => cases h; exact kept_writeCcr0 v s
  case h_40 => cases h; exact kept_writeDbcr0 v s
  case h_47 => cases h
  all_goals cases h; exact .of_eq (sameParts_refl s) rfl

theorem keepsOut_mfspr (rD : Reg) (sprn : BitVec 10) (s : State) : KeepsOut s (execMfspr rD sprn s) := by
  unfold execMfspr
  split
  · exact keepsOut_trapTo _ (.refl s)
  · split
    · exact keepsOut_done (kept_setReg _ _ _)
    · trivial

theorem keepsOut_mtspr (sprn : BitVec 10) (rS : Reg) (s : State) : KeepsOut s (execMtspr sprn rS s) := by
  unfold execMtspr
  split
  · exact keepsOut_trapTo _ (.refl s)
  · split
    · trivial
    · split
      · exact (kept_advance s).trans (kept_writeSpr ‹_›)
      · trivial

theorem keepsOut_mftb (rD : Reg) (tbrn : BitVec 10) (s : State) : KeepsOut s (execMftb rD tbrn s) := by
  unfold execMftb
  split
  · exact keepsOut_done (kept_setReg _ _ _)
  · split
    · exact keepsOut_done (kept_setReg _ _ _)
    · trivial

theorem keepsOut_mtmsr (rS : Reg) (s : State) : KeepsOut s (execMtmsr rS s) := by
  refine keepsOut_privileged ?_
  split
  · trivial
  · exact keepsOut_done (kept_writeMsr _ _)

theorem keepsOut_mfdcr (rD : Reg) (dcrn : BitVec 10) (s : State) : KeepsOut s (execMfdcr rD dcrn s) := by
  refine keepsOut_privileged ?_
  split
  · exact keepsOut_done ((kept_drawWord s).trans (kept_setReg _ _ _))
  · exact keepsOut_done (kept_setReg _ _ _)

theorem keepsOut_mtdcr (dcrn : BitVec 10) (rS : Reg) (s : State) : KeepsOut s (execMtdcr dcrn rS s) := by
  refine keepsOut_privileged ?_
  split
  · exact keepsOut_done (.refl s)
  · exact keepsOut_done (.of_eq (sameParts_refl s) rfl)

/-! ### The TLB -/

theorem kept_setTlbEntry (s : State) (i : BitVec 6) (e : TlbEntry) : Kept s (s.setTlbEntry i e) := by
  unfold State.setTlbEntry
  split
  · exact .refl s
  · exact .of_eq (sameParts_refl s) rfl

theorem keepsOut_putTlbEntry (i : BitVec 6) (e : TlbEntry) (s : State) : KeepsOut s (putTlbEntry i e s) := by
  unfold putTlbEntry
  split
  · trivial
  · exact keepsOut_done (kept_setTlbEntry s i e)

theorem keepsOut_tlbwe (rS rA : Reg) (ws : BitVec 5) (s : State) : KeepsOut s (execTlbwe rS rA ws s) := by
  refine keepsOut_privileged ?_
  simp only []
  split
  · exact keepsOut_putTlbEntry _ _ s
  · split
    · exact (keepsOut_putTlbEntry _ _ _).after (.of_eq (t := s.markTlb _) (sameParts_refl s) rfl)
    · trivial

theorem keepsOut_tlbre (rD rA : Reg) (ws : BitVec 5) (s : State) : KeepsOut s (execTlbre rD rA ws s) := by
  refine keepsOut_privileged ?_
  simp only []
  split
  · exact keepsOut_done (kept_setReg _ _ _)
  · split
    · exact keepsOut_done (((kept_drawWord s).trans (kept_setReg _ _ _)).trans (kept_writeCtx _ .pid _))
    · trivial

theorem kept_searchRecord (s : State) (rc found : Bool) : Kept s (s.searchRecord rc found) := by
  cases rc
  · exact .refl s
  · exact .of_eq (sameParts_refl s) rfl

theorem keepsOut_tlbsx (rD rA rB : Reg) (rc : Bool) (s : State) : KeepsOut s (execTlbsx rD rA rB rc s) := by
  refine keepsOut_privileged ?_
  split
  · exact keepsOut_done (((kept_drawWord s).trans (kept_setReg _ _ _)).trans (kept_searchRecord _ rc false))
  · exact keepsOut_done ((kept_setReg _ _ _).trans (kept_searchRecord _ rc true))
  · trivial

/-! ### Loads and stores -/

theorem keepsOut_loadTo (rD : Reg) (ea : Word) (n : Nat) (f : Word → Word) (s : State) : KeepsOut s (loadTo rD ea n f s) :=
  (effect_loadScalar rD ea n none f s).keeps.andThen fun v t => keepsOut_done (kept_setReg t rD v)

theorem keepsOut_loadUpdate (rD rA : Reg) (ea : Word) (n : Nat) (f : Word → Word) (s : State) :
    KeepsOut s (loadUpdate rD rA ea n f s) := by
  unfold loadUpdate
  split
  · trivial
  · exact (effect_loadScalar rD ea n none f s).keeps.andThen fun v t =>
      keepsOut_done ((kept_setReg t rD v).trans (kept_setReg _ rA ea))

theorem keepsOut_storeTo (ea : Word) (n : Nat) (v : Word) (s : State) : KeepsOut s (storeTo ea n v s) :=
  (effect_storeScalar ea n none v s).keeps.andThen fun _ t => keepsOut_done (.refl t)

theorem keepsOut_storeUpdate (rA : Reg) (ea : Word) (n : Nat) (v : Word) (s : State) :
    KeepsOut s (storeUpdate rA ea n v s) := by
  unfold storeUpdate
  split
  · trivial
  · exact (effect_storeScalar ea n none v s).keeps.andThen fun _ t => keepsOut_done (kept_setReg t rA ea)

theorem keepsOut_lwarx (rD rA rB : Reg) (s : State) : KeepsOut s (execLwarx rD rA rB s) :=
  (effect_loadScalar _ _ _ _ _ s).keeps.andThen fun _ t => keepsOut_done (.of_eq (sameParts_refl t) rfl)

theorem keepsOut_stwcx (rS rA rB : Reg) (s : State) : KeepsOut s (execStwcx rS rA rB s) := by
  have hc : ∀ (stored : Bool) (t : State), KeepsOut t (done (t.conditional stored)) := fun _ t =>
    keepsOut_done (.of_eq (sameParts_refl t) rfl)
  unfold execStwcx
  simp only []
  split
  · exact (effect_storeScalar _ _ _ _ s).keeps.andThen fun _ => hc true
  · exact (effect_beginAccess _ _ _ (fun _ t => .ok () t) s fun _ _ hu => DataSide.partly hu).keeps.andThen fun _ => hc false

theorem kept_putWords (rA last rD : Reg) (failed : List Nat) (ws : List Word) (s : State) :
    Kept s (putWords rA last rD failed ws s) := by
  rw [putWords_frame]
  exact .of_eq (sameParts_refl s) rfl

theorem keepsOut_lmw (rD rA : Reg) (d : BitVec 16) (s : State) : KeepsOut s (execLmw rD rA d s) :=
  (effect_loadOperand _ _ _ s fun _ _ => putWords_frame _ _ _ _ _ _).keeps.andThen fun _ _ =>
    keepsOut_done (kept_putWords _ _ _ _ _ _)

theorem keepsOut_stmw (rS rA : Reg) (d : BitVec 16) (s : State) : KeepsOut s (execStmw rS rA d s) :=
  (effect_storeOperand _ _ _ s).keeps.andThen fun _ t => keepsOut_done (.refl t)

theorem keepsOut_loadString (rD rA : Reg) (ea : Word) (n : Nat) (s : State) : KeepsOut s (loadString rD rA ea n s) :=
  (effect_loadOperand _ _ _ s fun _ _ => putWords_frame _ _ _ _ _ _).keeps.andThen fun _ _ =>
    keepsOut_done (kept_putWords _ _ _ _ _ _)

theorem keepsOut_storeString (rS : Reg) (ea : Word) (n : Nat) (s : State) : KeepsOut s (storeString rS ea n s) :=
  (effect_storeOperand _ _ _ s).keeps.andThen fun _ t => keepsOut_done (.refl t)

theorem keepsOut_lswx (rD rA rB : Reg) (s : State) : KeepsOut s (execLswx rD rA rB s) := by
  unfold execLswx
  split
  · exact keepsOut_done (.refl s)
  · exact keepsOut_loadString _ _ _ _ s

theorem keepsOut_stswx (rS rA rB : Reg) (s : State) : KeepsOut s (execStswx rS rA rB s) := by
  unfold execStswx
  split
  · exact keepsOut_done (.refl s)
  · exact keepsOut_storeString _ _ _ s

/-! ### Cache instructions -/

/-- A line replaced by one that is valid only where it was, with the same tag. -/
theorem dataSide_updateDLine (s : State) (ra : Word) (w : Way) {f : DLine → DLine}
    (hf : ∀ l, (f l).valid = true → l.valid = true ∧ (f l).tag = l.tag) : DataSide s (s.updateDLine ra w f) :=
  dataSide_setDClass fun hd => distinct_setLine (hf _) hd

theorem dataSide_allocateBody (ra : Word) (s : State) : (allocateBody ra s).DataSide s := by
  have hdraw : DataSide (dropFillBuffer ra s) (drawBool (drawLine (dropFillBuffer ra s)).2).2 := .of_draws rfl
  have h := (dataSide_dropFillBuffer ra s).trans hdraw
  unfold allocateBody
  simp only []
  split
  · exact h.trans (dataSide_updateDLine _ _ _ fun _ hv => ⟨hv, rfl⟩)
  · exact h.after (dataSide_dAllocate _ _ ‹_›)

theorem dataSide_zeroBody (ra : Word) (s : State) : (zeroBody ra s).DataSide s := by
  have h := dataSide_dropFillBuffer ra s
  unfold zeroBody
  simp only []
  split
  · exact (h.trans (dataSide_updateDLine _ ra _ (f := fun x => { x with data := 0#256, dirty := true }) fun _ hv =>
      ⟨hv, rfl⟩)).trans (dataSide_touch _ _ _)
  · exact h.after (dataSide_dAllocate _ _ ‹_›)

theorem dataSide_touchBody (x : Xlat) (s : State) : (touchBody x s).DataSide s := by
  unfold touchBody
  split
  · exact DataSide.refl s
  · rename_i h
    have hd : s.dHit x.ra = none := by
      rw [Bool.or_eq_true, not_or, Option.not_isSome_iff_eq_none] at h
      exact h.2
    split
    · simp only []
      split
      · exact (dataSide_drawBool s).after (dataSide_dFill (s := (drawBool s).2) hd)
      · exact dataSide_drawBool s
    · exact dataSide_dFill hd

theorem keeps_icbtFill (ea : Word) (x : Xlat) (s : State) : (icbtFill ea x s).Keeps s := by
  unfold icbtFill
  split
  · trivial
  · exact (FetchSide.trans (t := { s with busFetch := true }) rfl (fetchSide_iFill ea x.ra x.attr.e _)).kept

theorem keeps_icbtBody (ea : Word) (x : Xlat) (s : State) : (icbtBody ea x s).Keeps s := by
  have hd := (fetchSide_drawBool s).kept
  unfold icbtBody
  split
  · exact Kept.refl s
  · split
    · simp only []
      split
      · exact (keeps_icbtFill ea x _).after hd
      · exact hd
    · exact keeps_icbtFill ea x s

/-- The record of storage accesses is no part of what is kept. -/
theorem kept_unsynced (s : State) : Kept s { s with synced := false } := .of_eq (sameParts_refl s) rfl

/-- A hint whose body keeps the invariants. -/
theorem keepsOut_hint (k : AccKind) (write : Bool) (ea : Word) {body : Xlat → State → Res Unit}
    (hb : ∀ x t, (body x t).Keeps t) (s : State) : KeepsOut s (hint k write ea body s) := by
  have hc := dataSide_dataCheck k ea s
  unfold hint
  split <;> (rename_i e; rw [e] at hc)
  · exact keepsOut_done (DataSide.kept hc)
  · trivial
  · exact ((effect_dacCheck write [ea] _).keeps.andThen fun _ u =>
      (hb _ u).andThen fun _ v => keepsOut_finish u v).after (DataSide.kept hc)

theorem keepsOut_dcba (rA rB : Reg) (s : State) : KeepsOut s (execDcba rA rB s) := by
  refine keepsOut_hint _ _ _ (fun x t => ?_) s
  split
  · exact kept_unsynced t
  · exact ((dataSide_allocateBody x.ra _).keeps).after (kept_unsynced t)

theorem keepsOut_touch (ea : Word) (s : State) :
    KeepsOut s (hint .load false ea (fun x t => touchBody x { t with synced := false }) s) :=
  keepsOut_hint _ _ _ (fun x t => (dataSide_touchBody x _).keeps.after (kept_unsynced t)) s

theorem keepsOut_dcbf (rA rB : Reg) (s : State) : KeepsOut s (execDcbf rA rB s) := by
  refine (effect_cacheAccessDac _ _ _ s).keeps.andThen fun x t => ?_
  split
  · exact (dataSide_writeBack _ _ t).keeps.andThen fun _ u =>
      (keepsOut_finish t _).after (dataSide_dInvalidate _ _ u).kept
  · exact keepsOut_done (.refl t)

theorem keepsOut_dcbi (rA rB : Reg) (s : State) : KeepsOut s (execDcbi rA rB s) := by
  refine keepsOut_privileged ((effect_cacheAccessDac _ _ _ s).keeps.andThen fun x t => ?_)
  have h := (dataSide_dropFillBuffer x.ra t).kept
  simp only []
  split
  · exact keepsOut_done (h.trans (dataSide_dInvalidate _ _ _).kept)
  · exact keepsOut_done h

theorem keepsOut_dcbst (rA rB : Reg) (s : State) : KeepsOut s (execDcbst rA rB s) := by
  refine (effect_cacheAccessDac _ _ _ s).keeps.andThen fun x t => ?_
  split
  · exact (dataSide_writeBack _ _ t).keeps.andThen fun _ u =>
      (keepsOut_finish t _).after
        (dataSide_updateDLine u x.ra _ (f := fun l => { l with dirty := false }) fun _ hv => ⟨hv, rfl⟩).kept
  · exact keepsOut_done (.refl t)

theorem keepsOut_dcbz (rA rB : Reg) (s : State) : KeepsOut s (execDcbz rA rB s) := by
  refine (effect_cacheAccess _ _ s).keeps.andThen fun x t => ?_
  split
  · exact keepsOut_trapTo _ (.refl t)
  · exact (effect_dacCheck _ _ t).keeps.andThen fun _ u =>
      (dataSide_zeroBody x.ra u).keeps.andThen fun _ v => keepsOut_finish u v

theorem kept_dropFillClass (i : BitVec 8) (s : State) : Kept s (dropFillClass i s) := by
  unfold dropFillClass
  split
  · exact .refl s
  · split
    · exact (dataSide_noBuffer s).kept
    · exact .refl s

theorem kept_invalidateClass (i : BitVec 8) (s : State) : Kept s (invalidateClass i s) := by
  have h : Kept s { (drawBool s).2 with dcacheReady := (drawBool s).2.dcacheReady ||| 1#256 <<< i.toNat } :=
    .of_eq (sameParts_refl s) rfl
  exact h.trans (dataSide_setDClass fun _ hv => by cases hv).kept

theorem keepsOut_dccci (rA rB : Reg) (s : State) : KeepsOut s (execDccci rA rB s) :=
  keepsOut_privileged ((effect_cacheAccess _ _ s).keeps.andThen fun _ t =>
    keepsOut_done ((kept_dropFillClass _ t).trans (kept_invalidateClass _ _)))

theorem keeps_tlbMissOnly (ea : Word) (s : State) : (tlbMissOnly ea s).Keeps s := by
  have hc := dataSide_dataCheck .load ea s
  unfold tlbMissOnly
  split <;> (rename_i e; rw [e] at hc)
  · exact DataSide.kept hc
  · exact (DataSide.kept hc).trans (kept_takeInterrupt _ _ _)
  · exact DataSide.kept hc
  · trivial

theorem kept_dcacheInfo (ea : Word) (s : State) : Kept s (dcacheInfo ea s).2 := by
  unfold dcacheInfo
  simp only []
  split
  · exact kept_drawWord s
  · exact .refl s

theorem kept_icacheInfo (ea : Word) (s : State) : Kept s (icacheInfo ea s).2 := by
  unfold icacheInfo
  simp only []
  split
  · exact kept_drawWord s
  · exact .refl s

theorem keepsOut_dcread (rD rA rB : Reg) (s : State) : KeepsOut s (execDcread rD rA rB s) := by
  refine keepsOut_privileged ((keeps_tlbMissOnly _ s).andThen fun _ t => ?_)
  split
  · exact keepsOut_done ((kept_dcacheInfo _ t).trans (kept_setReg _ _ _))
  · exact keepsOut_trapTo _ (.refl t)

theorem keepsOut_icread (rA rB : Reg) (s : State) : KeepsOut s (execIcread rA rB s) :=
  keepsOut_privileged ((keeps_tlbMissOnly _ s).andThen fun _ t =>
    keepsOut_done ((kept_icacheInfo _ t).trans (kept_writeCtx _ _ _)))

theorem keepsOut_icbi (rA rB : Reg) (s : State) : KeepsOut s (execIcbi rA rB s) := by
  refine (effect_cacheAccessDac _ _ _ s).keeps.andThen fun x t => ?_
  split
  · exact keepsOut_done (fetchSide_iInvalidate _ _ t).kept
  · exact keepsOut_done (.refl t)

theorem keepsOut_icbt (rA rB : Reg) (s : State) : KeepsOut s (execIcbt rA rB s) :=
  keepsOut_hint _ _ _ (keeps_icbtBody _) s

/-! ### Every instruction -/

/-- An instruction's next state keeps the invariants, whatever the instruction and the state. -/
theorem keepsOut_exec (i : Instr) (s : State) : KeepsOut s (exec i s) := by
  cases i with
  | add | subf | neg | mullw | macchw | macchws | macchwsu | macchwu | machhw | machhws | machhwsu | machhwu | maclhw | maclhws
    | maclhwsu | maclhwu | nmacchw | nmacchws | nmachhw | nmachhws | nmaclhw | nmaclhws =>
    exact keepsOut_done (kept_writeOv _ _ _ _ _ _ _)
  | addc | adde | addic | addicDot | addme | addze | subfc | subfe | subfic | subfme | subfze =>
    exact keepsOut_done (kept_writeSumCa _ _ _ _ _)
  | divw => exact keepsOut_divw _ _ _ _ _ s
  | divwu => exact keepsOut_divwu _ _ _ _ _ s
  | addi | addis | mulli | mfcr => exact keepsOut_done (kept_setReg _ _ _)
  | mulhw | mulhwu | mulchw | mulchwu | mulhhw | mulhhwu | mullhw | mullhwu | and | andc | eqv | nand | nor | or | orc | xor
    | andiDot | andisDot | ori | oris | xori | xoris | extsb | extsh | cntlzw | rlwimi | rlwinm | rlwnm | slw | srw =>
    exact keepsOut_done (kept_writeLogic _ _ _ _)
  | sraw | srawi => exact keepsOut_done (kept_writeShift _ _ _ _ _)
  | cmp | cmpi | cmpl | cmpli | crand | crandc | creqv | crnand | crnor | cror | crorc | crxor | mcrf | mcrxr | mtcrf =>
    exact keepsOut_done (.of_eq (sameParts_refl s) rfl)
  | sync | eieio | isync => exact keepsOut_done (.of_eq (sameParts_refl s) rfl)
  | wrtee | wrteei | tlbia | iccci => exact keepsOut_privileged (keepsOut_done (.of_eq (sameParts_refl s) rfl))
  | tlbsync => exact keepsOut_privileged (keepsOut_done (.refl s))
  | mfmsr => exact keepsOut_privileged (keepsOut_done (kept_setReg _ _ _))
  | b => exact keepsOut_b _ _ _ s
  | bc => exact keepsOut_condBranch _ _ _ (fun _ h => aligned_branchTarget h _ (aligned_append _ _)) s
  | bclr | bcctr => exact keepsOut_condBranch _ _ _ (fun _ _ => aligned_wordAlign _) s
  | sc => exact keepsOut_sc s
  | tw | twi => exact keepsOut_trapIf _ s
  | rfi | rfci => exact keepsOut_privileged (keepsOut_returnChecked _ _ s)
  | mfspr => exact keepsOut_mfspr _ _ s
  | mtspr => exact keepsOut_mtspr _ _ s
  | mftb => exact keepsOut_mftb _ _ s
  | mtmsr => exact keepsOut_mtmsr _ s
  | mfdcr => exact keepsOut_mfdcr _ _ s
  | mtdcr => exact keepsOut_mtdcr _ _ s
  | tlbwe => exact keepsOut_tlbwe _ _ _ s
  | tlbre => exact keepsOut_tlbre _ _ _ s
  | tlbsx => exact keepsOut_tlbsx _ _ _ _ s
  | lbz | lbzx | lha | lhax | lhz | lhzx | lwz | lwzx | lhbrx | lwbrx => exact keepsOut_loadTo _ _ _ _ s
  | lbzu | lbzux | lhau | lhaux | lhzu | lhzux | lwzu | lwzux => exact keepsOut_loadUpdate _ _ _ _ _ s
  | stb | stbx | sth | sthx | stw | stwx | sthbrx | stwbrx => exact keepsOut_storeTo _ _ _ s
  | stbu | stbux | sthu | sthux | stwu | stwux => exact keepsOut_storeUpdate _ _ _ _ s
  | lwarx => exact keepsOut_lwarx _ _ _ s
  | stwcx => exact keepsOut_stwcx _ _ _ s
  | lmw => exact keepsOut_lmw _ _ _ s
  | stmw => exact keepsOut_stmw _ _ _ s
  | lswi => exact keepsOut_loadString _ _ _ _ s
  | lswx => exact keepsOut_lswx _ _ _ s
  | stswi => exact keepsOut_storeString _ _ _ s
  | stswx => exact keepsOut_stswx _ _ _ s
  | dcba => exact keepsOut_dcba _ _ s
  | dcbf => exact keepsOut_dcbf _ _ s
  | dcbi => exact keepsOut_dcbi _ _ s
  | dcbst => exact keepsOut_dcbst _ _ s
  | dcbt | dcbtst => exact keepsOut_touch _ s
  | dcbz => exact keepsOut_dcbz _ _ s
  | dccci => exact keepsOut_dccci _ _ s
  | dcread => exact keepsOut_dcread _ _ _ s
  | icbi => exact keepsOut_icbi _ _ s
  | icbt => exact keepsOut_icbt _ _ s
  | icread => exact keepsOut_icread _ _ s

/-! ### Boundaries -/

theorem kept_invertIac (m : Word) (s : State) : Kept s (invertIac m s) := .of_eq (sameParts_refl s) rfl

theorem kept_ite {c : Prop} [Decidable c] {s : State} {d e : Debugged} (hd : Kept s d.state) (he : Kept s e.state) :
    Kept s (if c then d else e).state := by
  split
  · exact hd
  · exact he

/-- The toggle of a range sense: made, or, where the event is quiet, freely made or not (R872). -/
theorem kept_toggled (m : Word) (s : State) :
    Kept s (if s.quietDebug then (if (drawBool s).1 then invertIac m (drawBool s).2 else (drawBool s).2)
      else invertIac m s) := by
  split
  · split
    · exact (dataSide_drawBool s).kept.trans (kept_invertIac m _)
    · exact (dataSide_drawBool s).kept
  · exact kept_invertIac m s

theorem kept_iacCheck (s : State) : Kept s (iacCheck s).state :=
  kept_ite (.refl s) (kept_ite (kept_debugEventWith _ _ _ _ s)
    (kept_ite ((kept_toggled _ s).trans (kept_freezeTimers _)) ((kept_toggled _ s).trans (kept_debugEventWith _ _ _ _ _))))

theorem kept_completionEvents (de : Bool) (s : State) : Kept s (completionEvents de s) := by
  unfold completionEvents
  simp only []
  split
  · split
    · exact kept_freezeTimers s
    · exact .refl s
  · exact kept_debugEventWith _ _ _ _ s

theorem kept_dataMachineCheck (s : State) : Kept s (dataMachineCheck s).state := by
  have hdraw : Kept s (if s.mcDue then (true, s) else drawBool s).2 := by
    split
    · exact .refl s
    · exact (dataSide_drawBool s).kept
  unfold dataMachineCheck
  simp only []
  split
  · generalize (if s.mcDue then (true, s) else drawBool s) = r at hdraw
    have hacted : Kept s { r.2 with dataMC := false, mcDue := false } := hdraw.trans (.of_eq (sameParts_refl r.2) rfl)
    split
    · split
      · exact hacted.trans (kept_takeInterrupt _ _ _)
      · exact hacted
    · exact hdraw
  · exact .refl s

theorem kept_recordInstrError (s : State) : Kept s (recordInstrError s) := by
  unfold recordInstrError
  split
  · exact .of_eq (sameParts_refl s) rfl
  · exact .refl s

theorem kept_instrErrorMasked (s : State) : Kept s (instrErrorMasked s) :=
  (kept_recordInstrError s).trans (.of_eq (sameParts_refl _) rfl)

theorem kept_debugRequest (s : State) : Kept s (debugRequest s).state := by
  unfold debugRequest
  split
  · exact kept_debugEventWith _ _ _ _ s
  · split
    · exact (Kept.of_eq (t := { s with dbgPend := false }) (sameParts_refl s) rfl).trans (kept_interruptEntry _ _ _)
    · exact .refl s

theorem kept_urgentRequest (s : State) : Kept s (urgentRequest s).state := by
  have h := kept_debugRequest s
  unfold urgentRequest
  split <;> (rename_i e; rw [e] at h)
  · exact h
  · split
    · exact h.trans (kept_takeInterrupt _ _ _)
    · exact h

theorem kept_waitStep (s : State) : Kept s (waitStep s) := by
  have h := kept_dataMachineCheck s
  unfold waitStep
  split <;> (rename_i t e; rw [e] at h)
  · exact h
  · have hu := h.trans (kept_urgentRequest t)
    split <;> (rename_i e; rw [e] at hu)
    · exact hu
    · split
      · exact hu.trans (kept_takeInterrupt _ _ _)
      · exact hu

theorem kept_debugWaitStep (s : State) : Kept s (debugWaitStep s) := by
  have h : Kept s { s with run := .running, dwLatched := true } := .of_eq (sameParts_refl s) rfl
  unfold debugWaitStep
  split
  · exact h.trans (kept_takeInterrupt _ _ _)
  · split
    · exact h.trans (kept_takeInterrupt _ _ _)
    · exact .refl s

/-! ### Steps -/

theorem keepsOut_execWord (w : Word) (s : State) : KeepsOut s (execWord w s) := by
  unfold execWord
  split
  · exact keepsOut_exec _ s
  · exact keepsOut_trapTo _ (.refl s)
  · trivial

theorem keepsOut_orLowRequest {s : State} {k : Out} (h : KeepsOut s k) : KeepsOut s (orLowRequest s k) := by
  unfold orLowRequest
  split
  · exact kept_takeInterrupt _ _ s
  · exact h

theorem keepsOut_runWord (w : Word) (s : State) : KeepsOut s (runWord w s) := by
  have h := keepsOut_execWord w s
  unfold runWord
  split <;> (rename_i e; rw [e] at h)
  · split
    · exact h
    · refine keepsOut_orLowRequest ?_
      split
      · exact Kept.trans h (kept_completionEvents _ _)
      · exact h
  · split
    · trivial
    · exact keepsOut_orLowRequest h
  · exact keepsOut_orLowRequest h

/-- A fetch changes nothing of what is kept. -/
theorem kept_fetch (ea : Word) (s : State) : (fetch ea s).leaves (Kept s) := by
  have h := fetchSide_fetch ea s
  cases hf : fetch ea s with
  | word w t => rw [hf] at h; exact FetchSide.kept h
  | exc e t => rw [hf] at h; exact FetchSide.kept h
  | busError t => rw [hf] at h; exact FetchSide.kept h
  | fault f => trivial

theorem keepsOut_runFetched {s : State} {f : Fetched} (h : f.leaves (Kept s)) : KeepsOut s (runFetched f) := by
  cases f with
  | word w t => exact (keepsOut_runWord w t).after h
  | exc e t => exact keepsOut_trapTo e h
  | busError t =>
    exact (keepsOut_runWord _ _).after (Kept.trans h ((kept_instrErrorMasked t).trans (kept_drawWord _)))
  | fault f => trivial

theorem kept_instrMachineCheck {s t : State} {f : Fetched} (hf : f.leaves (Kept s)) (h : instrMachineCheck f = some t) :
    Kept s t := by
  cases f with
  | busError u =>
    simp only [instrMachineCheck] at h
    split at h
    · cases h
      exact Kept.trans hf ((kept_recordInstrError u).trans (kept_takeInterrupt _ _ _))
    · cases h
  | word | exc | fault => cases h

theorem keepsOut_runInstr (s : State) : KeepsOut s (runInstr s) := by
  have hu := kept_urgentRequest s
  unfold runInstr
  split
  · exact kept_instrMachineCheck (kept_fetch s.pc s) ‹_›
  · split <;> (rename_i e; rw [e] at hu)
    · exact hu
    · exact (keepsOut_runFetched (kept_fetch _ _)).after hu

theorem keepsOut_runStep (s : State) : KeepsOut s (runStep s) := by
  have hm := kept_dataMachineCheck s
  unfold runStep
  split
  · trivial
  · split <;> (rename_i t e; rw [e] at hm)
    · exact hm
    · have hi := hm.trans (kept_iacCheck t)
      split <;> (rename_i e; rw [e] at hi)
      · exact hi
      · exact (keepsOut_runInstr _).after hi

theorem keepsOut_stepRunState (s : State) : KeepsOut s (stepRunState s) := by
  unfold stepRunState
  split
  · split
    · exact kept_waitStep s
    · exact keepsOut_runStep s
  · exact Kept.refl s
  · exact kept_debugWaitStep s

/-- What every step keeps. -/
theorem kept_step {s t : State} (h : step s = .next t) : Kept s t := by
  have hk : KeepsOut s (step s) := (keepsOut_stepRunState s.begun).after (kept_begun s)
  rw [h] at hk
  exact hk

/-- Settles O58: it holds. The invariant and PVR are parts of what every step keeps. -/
theorem stepsKeepTheInvariant : Obligations.StepsKeepTheInvariant := by
  unfold Obligations.StepsKeepTheInvariant
  rintro s t ⟨hwf, haligned⟩ h
  have k := kept_step h
  exact ⟨⟨k.wf hwf, k.aligned haligned⟩, k.pvr⟩

end Sys2Proof.Machine

/-! ## Logical results and compares

The whole effect of `State.writeLogic` and of a written CR field, once; sign copies, the count of leading zeros, and the comparisons
as those of the numbers. -/

namespace Sys2Proof.Machine

/-! ### A logical result in a register and CR0 (R550) -/

theorem onlyRegisters_writeLogic (s : State) (rA : Reg) (res : Word) (rc : Bool) :
    OnlyRegisters s (s.writeLogic rA res rc).advance := by
  cases rc <;> rfl

theorem sameMemory_writeLogic (s : State) (rA : Reg) (res : Word) (rc : Bool) :
    SameMemory s (s.writeLogic rA res rc).advance := by
  rw [onlyRegisters_writeLogic s rA res rc]
  exact fun _ => ⟨rfl, rfl, rfl⟩

theorem writesReg_writeLogic (s : State) (rA : Reg) (res : Word) (rc : Bool) :
    WritesReg rA res s (s.writeLogic rA res rc).advance := by
  have hreg (q : Reg) : (s.writeLogic rA res rc).advance.reg q = (s.setReg rA res).reg q := by cases rc <;> rfl
  refine ⟨?_, fun q hq => ?_⟩
  · rw [hreg, reg_setReg_self]
  · rw [hreg, reg_setReg_ne s res hq]

theorem xerAfter_writeLogic (s : State) (rA : Reg) (res : Word) (rc : Bool) :
    XerAfter none none s (s.writeLogic rA res rc).advance :=
  xerAfter_ovIf false false (by cases rc <;> rfl)

theorem recorded_writeLogic (s : State) (rA : Reg) (res : Word) (rc : Bool) :
    Recorded rc res s (s.writeLogic rA res rc).advance := recorded_recordIf rc res rfl

theorem writesBits_of_writeLogic {i : Instr} {rA : Reg} {res : Word} {f : Nat → Bool} {rc : Bool} {s : State}
    (h : exec i s = done (s.writeLogic rA res rc)) (hf : ∀ k, k < 32 → bit res k = f k) :
    Claims.WritesBits i rA f none rc s := by
  obtain ⟨hself, hother⟩ := writesReg_writeLogic s rA res rc
  refine ⟨_, h, onlyRegisters_writeLogic s rA res rc, sameMemory_writeLogic s rA res rc, ?_, hother,
    xerAfter_writeLogic s rA res rc, ?_⟩
  · rw [hself]; exact hf
  · rw [hself]; exact recorded_writeLogic s rA res rc

theorem computes_of_writeLogic {i : Instr} {rA : Reg} {n : Int} {rc : Bool} {s : State}
    (h : exec i s = done (s.writeLogic rA (BitVec.ofInt 32 n) rc)) : Claims.Computes i rA n none rc s :=
  ⟨_, h, onlyRegisters_writeLogic s rA _ rc, sameMemory_writeLogic s rA _ rc, writesReg_writeLogic s rA _ rc,
    xerAfter_writeLogic s rA _ rc, recorded_writeLogic s rA _ rc⟩

/-! ### Sign copies and leading zeros (R556, R557, R567) -/

/-- A sign copied from the `n` low-order bits: bit `32 - n` stands before them too. -/
theorem bit_signCopy (x : Word) {n : Nat} (h0 : 0 < n) (hn : n ≤ 32) (k : Nat) (hk : k < 32) :
    bit ((x.setWidth n).signExtend 32) k = if k < 32 - n then bit x (32 - n) else bit x k := by
  simp only [bit, BitVec.getLsbD_signExtend, BitVec.msb_setWidth, BitVec.getLsbD_setWidth]
  by_cases h : k < 32 - n
  · simp [h, show 31 - k < 32 by omega, show ¬ 31 - k < n by omega, show 31 - (32 - n) = n - 1 by omega, h0]
  · simp [h, show 31 - k < 32 by omega, show 31 - k < n by omega]

theorem leadingZeros_le (x : Word) : leadingZeros x ≤ 32 := by
  simpa [leadingZeros] using List.findIdx_le_length (xs := List.range 32) (p := fun i => bit x i)

theorem bit_of_lt_leadingZeros {x : Word} {k : Nat} (h : k < leadingZeros x) : bit x k = false := by
  simpa using List.not_of_lt_findIdx h

theorem bit_leadingZeros {x : Word} (h : leadingZeros x < 32) : bit x (leadingZeros x) = true := by
  have hfound := List.findIdx_getElem (xs := List.range 32) (p := fun i => bit x i) (w := by rwa [List.length_range])
  rwa [List.getElem_range] at hfound

/-- Settles O7: it holds. -/
theorem extendsAndCountsLeadingZeros : Obligations.ExtendsAndCountsLeadingZeros := by
  unfold Obligations.ExtendsAndCountsLeadingZeros
  intro rA rS rc s
  refine ⟨writesBits_of_writeLogic rfl (bit_signCopy (s.reg rS) (n := 8) (by decide) (by decide)),
    writesBits_of_writeLogic rfl (bit_signCopy (s.reg rS) (n := 16) (by decide) (by decide)),
    leadingZeros (s.reg rS), leadingZeros_le _, fun k hk => bit_of_lt_leadingZeros hk, bit_leadingZeros,
    computes_of_writeLogic ?_⟩
  rw [BitVec.ofInt_natCast]
  rfl

/-! ### Compares (10_state.md R47, R570 to R573) -/

/-- A CR field written with four bits. -/
theorem writesField_setCrField (s : State) (n : BitVec 3) (lt gt eq so : Bool) :
    WritesField n lt gt eq so s (s.setCrField n (crBits lt gt eq so)).advance := by
  intro k hk
  change bit (withCrField s.cr n (crBits lt gt eq so)) k = _
  rw [bit_withCrField _ _ _ _ hk, getLsbD_crBits]
  by_cases hfield : k / 4 = n.toNat
  · obtain rfl | rfl | rfl | rfl :
        k = 4 * n.toNat ∨ k = 4 * n.toNat + 1 ∨ k = 4 * n.toNat + 2 ∨ k = 4 * n.toNat + 3 := by omega
    all_goals simp [hfield, Nat.add_mod]
  · rw [if_neg hfield, if_neg (by omega), if_neg (by omega), if_neg (by omega), if_neg (by omega)]

theorem compares_of_setCrField {i : Instr} {n : BitVec 3} {lt gt eq : Bool} {s : State}
    (h : exec i s = done (s.setCrField n (compareBits lt gt eq s.so))) : Claims.Compares i n lt gt eq s :=
  ⟨_, h, rfl, fun _ => ⟨rfl, rfl, rfl⟩, writesField_setCrField s n lt gt eq _⟩

/-- The signed comparison is that of the integers. -/
theorem signedCompare_eq (a b : Word) (so : Bool) :
    signedCompare a b so =
      compareBits (decide (a.toInt < b.toInt)) (decide (b.toInt < a.toInt)) (decide (a.toInt = b.toInt)) so := by
  have heq : (a == b) = decide (a.toInt = b.toInt) := by simp [Bool.beq_eq_decide_eq, BitVec.toInt_inj]
  rw [signedCompare, heq]
  rfl

/-- The unsigned comparison is that of the natural numbers. -/
theorem unsignedCompare_eq (a b : Word) (so : Bool) :
    unsignedCompare a b so =
      compareBits (decide (a.toNat < b.toNat)) (decide (b.toNat < a.toNat)) (decide (a.toNat = b.toNat)) so := by
  have heq : (a == b) = decide (a.toNat = b.toNat) := by simp [Bool.beq_eq_decide_eq, BitVec.toNat_inj]
  rw [unsignedCompare, heq]
  rfl

theorem compares_of_signedCompare {i : Instr} {n : BitVec 3} {a b : Word} {s : State}
    (h : exec i s = done (s.setCrField n (signedCompare a b s.so))) :
    Claims.Compares i n (decide (a.toInt < b.toInt)) (decide (b.toInt < a.toInt)) (decide (a.toInt = b.toInt)) s :=
  compares_of_setCrField (by rw [h, signedCompare_eq])

theorem compares_of_unsignedCompare {i : Instr} {n : BitVec 3} {a b : Word} {s : State}
    (h : exec i s = done (s.setCrField n (unsignedCompare a b s.so))) :
    Claims.Compares i n (decide (a.toNat < b.toNat)) (decide (b.toNat < a.toNat)) (decide (a.toNat = b.toNat)) s :=
  compares_of_setCrField (by rw [h, unsignedCompare_eq])

theorem toInt_simm32 (v : BitVec 16) : (simm32 v).toInt = v.toInt := BitVec.toInt_signExtend_of_le (by decide)

theorem toNat_uimm32 (v : BitVec 16) : (uimm32 v).toNat = v.toNat := BitVec.toNat_setWidth_of_le (by decide)

/-- Settles O8: it holds. -/
theorem comparesWriteTheirField : Obligations.ComparesWriteTheirField := by
  unfold Obligations.ComparesWriteTheirField
  intro crfD rA rB imm s
  refine ⟨compares_of_signedCompare rfl, ?_, compares_of_unsignedCompare rfl, ?_⟩
  · rw [← toInt_simm32 imm]
    exact compares_of_signedCompare rfl
  · rw [← toNat_uimm32 imm]
    exact compares_of_unsignedCompare rfl

end Sys2Proof.Machine

/-! ## Reset

The registers that a reset gives a value, for each way to reset the processor, and the invariants in the state at power-up. -/

namespace Sys2Proof.Machine

/-- DBSR[MRR] holds the kind of the reset. -/
theorem mrr_eq_kindCode (k : ResetKind) :
    bit (k.code.setWidth 32 <<< 8) 22 = (Claims.kindCode k).getLsbD 1 ∧
      bit (k.code.setWidth 32 <<< 8) 23 = (Claims.kindCode k).getLsbD 0 := by
  cases k <;> decide

/-- TSR[WRS] holds the kind of a reset by the watchdog. -/
theorem wrs_eq_kindCode (k : ResetKind) (watchdog : Bool) :
    bit (if watchdog then k.code.setWidth 32 <<< 28 else 0#32) 2 = (watchdog && (Claims.kindCode k).getLsbD 1) ∧
      bit (if watchdog then k.code.setWidth 32 <<< 28 else 0#32) 3 = (watchdog && (Claims.kindCode k).getLsbD 0) := by
  cases k <;> cases watchdog <;> decide

/-- A reset of any kind and cause gives the registers of R137 their values (70_reset_and_hazards.md R933). -/
theorem afterReset_resetProcessor (k : ResetKind) (watchdog : Bool) (s : State) :
    Claims.AfterReset (Claims.kindCode k) watchdog (resetProcessor k watchdog s) where
  pc := rfl
  msr := rfl
  ccr0 := rfl
  dbcr := ⟨rfl, rfl⟩
  mrr := mrr_eq_kindCode k
  cacheability := ⟨rfl, rfl⟩
  esr := rfl
  sgr := rfl
  sler := rfl
  su0r := rfl
  wrc := ⟨bit_zero 2, bit_zero 3⟩
  wrs := wrs_eq_kindCode k watchdog
  frozen := rfl
  running := rfl

/-- The state at power-up has the registers of a system reset (log entry 27). -/
theorem afterReset_reset : Claims.AfterReset 3#2 false State.reset :=
  { afterReset_resetProcessor .system false State.reset with }

theorem resetKindOf_kindCode (k : ResetKind) : resetKindOf (Claims.kindCode k) = some k := by
  cases k <;> rfl

/-- A write of DBCR0[RST] resets the processor (61_timers_debug.md R884). -/
theorem writeDbcr0_reset {v : Word} {k : ResetKind} (h : v.extractLsb' 28 2 = Claims.kindCode k) (s : State) :
    writeDbcr0 v s = resetProcessor k false s := by
  have hk : resetKindOf (bits v 2 2) = some k := by rw [← resetKindOf_kindCode k, ← h]; rfl
  rw [writeDbcr0, hk]

theorem mtspr_next {sprn : BitVec 10} {rS : Reg} {s t : State} (ha : Claims.mayAccess sprn s)
    (hf : sprFault sprn.toNat (s.reg rS) s = none) (hw : writeSpr sprn.toNat (s.reg rS) s.advance = some t) :
    exec (.mtspr sprn rS) s = .next t := by
  change execMtspr sprn rS s = _
  simp [execMtspr, privilegedSpr_user_eq_false ha, hf, hw]

/-- Settles O48: it holds. -/
theorem resetGivesTheSpecifiedValues : Obligations.ResetGivesTheSpecifiedValues := by
  unfold Obligations.ResetGivesTheSpecifiedValues
  refine ⟨afterReset_reset, fun rS k s hs hp hk => ?_⟩
  have hreset : writeSpr 1010 (s.reg rS) s.advance = some (resetProcessor k false s.advance) :=
    congrArg some (writeDbcr0_reset hk s.advance)
  exact ⟨_, mtspr_next (mayAccess_of_privileged hs hp _) (sprFault_eq_none (by decide) _ _) hreset,
    afterReset_resetProcessor k false _, rfl, rfl⟩

theorem reset_inv : State.reset.inv := ⟨⟨rfl, rfl, rfl⟩, by decide⟩

theorem reset_dClass (i : BitVec 8) :
    State.reset.dClass i = { wayA := DLine.zero, wayB := DLine.zero, lru := false } := by
  change (Vector.replicate 256 _)[i.toNat]'_ = _
  simp

/-- At reset no line of the data cache is valid (log entry 1). -/
theorem reset_linesDistinct : State.reset.linesDistinct := by
  intro i hvalid
  rw [reset_dClass] at hvalid
  cases hvalid

/-- Settles O57: it holds. -/
theorem resetMeetsTheInvariants : Obligations.ResetMeetsTheInvariants := ⟨reset_inv, reset_linesDistinct⟩

end Sys2Proof.Machine

/-! ## Memory and the caches (20_memory.md)

What a load and a store do with a word that the data cache holds, and what a fetch gives from memory, from the instruction cache and
from on-chip memory. -/

namespace Sys2Proof.Machine

/-- Settles O59: it holds. That no block is held twice is a part of what every step keeps. -/
theorem stepsKeepCacheLinesDistinct : Obligations.StepsKeepCacheLinesDistinct :=
  fun _ _ hd h => (kept_step h).distinct hd

/-! ### Blocks, lines and their bytes -/

/-- A block is a class and a tag (R160). -/
theorem blockOf_eq_iff {a b : Word} : blockOf a = blockOf b ↔ classIndex a = classIndex b ∧ dTag a = dTag b := by
  simp only [blockOf, classIndex, dTag, ← BitVec.toNat_inj, BitVec.extractLsb'_toNat, Nat.shiftRight_eq_div_pow]
  omega

/-- Bytes after an address that the end of a word does not cut off lie in the same block, one after another in its line. -/
theorem within_word_add {a : Word} {n k : Nat} (hw : a.toNat % 4 + n ≤ 4) (hk : k < n) :
    blockOf (a + BitVec.ofNat 32 k) = blockOf a ∧ lineOffset (a + BitVec.ofNat 32 k) = lineOffset a + k := by
  have := a.isLt
  simp only [blockOf, lineOffset_eq, BitVec.toNat_add, BitVec.toNat_ofNat]
  omega

/-- The same for an address that lies in such a run of bytes. -/
theorem within_word_sub {a ea : Word} {n : Nat} (hw : ea.toNat % 4 + n ≤ 4) (h : (a - ea).toNat < n) :
    blockOf a = blockOf ea ∧ lineOffset a = lineOffset ea + (a - ea).toNat := by
  have key := within_word_add hw h
  rwa [BitVec.ofNat_toNat, BitVec.setWidth_eq, add_sub_cancel] at key

/-- How far apart two addresses of one block are. -/
theorem sub_lt_iff_of_blockOf_eq {a ea : Word} {n : Nat} (hb : blockOf a = blockOf ea) (hn : n ≤ 32) :
    (a - ea).toNat < n ↔ lineOffset ea ≤ lineOffset a ∧ lineOffset a < lineOffset ea + n := by
  have := a.isLt; have := ea.isLt
  simp only [blockOf] at hb
  simp only [lineOffset_eq, BitVec.toNat_sub]
  omega

theorem lineOffset_lt (a : Word) : lineOffset a < 32 := BitVec.isLt _

theorem lineByte_setLineByte (d : BitVec 256) (b : Byte) {k j : Nat} (hk : k < 32) (hj : j < 32) :
    lineByte (setLineByte d k b) j = if j = k then b else lineByte d j := by
  have hmask (m : Nat) : (0xFF#256).getLsbD m = decide (m < 8) := by
    rw [show (0xFF#256) = BitVec.ofNat 256 (2 ^ 8 - 1) from rfl, BitVec.getLsbD_ofNat, Nat.testBit_two_pow_sub_one]
    by_cases h : m < 8 <;> simp [h]; omega
  apply BitVec.eq_of_getLsbD_eq
  intro i hi
  simp only [lineByte, setLineByte, BitVec.getLsbD_extractLsb', BitVec.getLsbD_or, BitVec.getLsbD_and, BitVec.getLsbD_not,
    BitVec.getLsbD_shiftLeft, BitVec.getLsbD_setWidth, hmask]
  by_cases e : j = k
  · subst e
    simp [hi, show 248 - 8 * j + i < 256 by omega, show i < 256 by omega]
  · by_cases hlt : 248 - 8 * j + i < 248 - 8 * k
    · simp [e, hi, hlt, show 248 - 8 * j + i < 256 by omega]
    · have hfar : ¬ 248 - 8 * j + i - (248 - 8 * k) < 8 := by omega
      have hb : b.getLsbD (248 - 8 * j + i - (248 - 8 * k)) = false := BitVec.getLsbD_of_ge _ _ (by omega)
      simp [e, hi, hfar, hb, show 248 - 8 * j + i < 256 by omega]

/-- A line after some of its bytes are replaced. -/
theorem lineByte_setLineBytes (d : BitVec 256) (bs : List Byte) {k j : Nat} (hk : k + bs.length ≤ 32) (hj : j < 32) :
    lineByte (setLineBytes d k bs) j = if k ≤ j ∧ j < k + bs.length then bs.getD (j - k) 0#8 else lineByte d j := by
  induction bs generalizing d k with
  | nil => simp [setLineBytes]
  | cons b bs ih =>
    simp only [List.length_cons] at hk ⊢
    rw [setLineBytes, ih _ (by omega), lineByte_setLineByte _ _ (by omega) hj]
    by_cases e : j = k
    · subst e; simp
    · by_cases h : k + 1 ≤ j ∧ j < k + 1 + bs.length
      · obtain ⟨m, rfl⟩ : ∃ m, j = k + m + 1 := ⟨j - k - 1, by omega⟩
        rw [if_pos h, if_pos (by omega), show k + m + 1 - (k + 1) = m by omega, show k + m + 1 - k = m + 1 by omega,
          List.getD_cons_succ]
      · rw [if_neg h, if_neg e, if_neg (by omega)]

/-- The bytes of a value in memory, most significant first. -/
theorem getD_bytesOf (n : Nat) (v : Word) {k : Nat} (hk : k < n) (b : Byte) :
    (bytesOf n v).getD k b = memByte false n v k := by
  rw [List.getD_eq_getElem _ _ (by simpa [bytesOf] using hk)]
  apply BitVec.eq_of_toNat_eq
  simp [bytesOf, memByte, BitVec.extractLsb'_toNat, Nat.shiftRight_eq_div_pow, Nat.pow_mul]

@[simp] theorem length_bytesOf (n : Nat) (v : Word) : (bytesOf n v).length = n := by simp [bytesOf]

/-! ### A line of a class read, written and used (R161, R165) -/

theorem DClass.find_touch (c : DClass) (w : Way) (t : BitVec 19) : (c.touch w).find t = c.find t := rfl

theorem DClass.line_touch (c : DClass) (w v : Way) : (c.touch w).line v = c.line v := by cases v <;> rfl

theorem DClass.line_setLine (c : DClass) (w v : Way) (l : DLine) :
    (c.setLine w l).line v = if v = w then l else c.line v := by
  cases v <;> cases w <;> rfl

/-- A line that keeps its tag and stays as valid as it was is found as before. -/
theorem DClass.find_setLine {c : DClass} {w : Way} {l : DLine} (hv : l.valid = (c.line w).valid)
    (ht : l.tag = (c.line w).tag) (t : BitVec 19) : (c.setLine w l).find t = c.find t := by
  cases w <;> simp_all [DClass.find, DClass.setLine, DClass.line]

/-- The line that is found has the tag. -/
theorem DClass.tag_of_find {c : DClass} {t : BitVec 19} {w : Way} (h : c.find t = some w) : (c.line w).tag = t := by
  unfold DClass.find at h
  split at h
  · cases h; simp_all [DClass.line]
  · split at h
    · cases h; simp_all [DClass.line]
    · cases h

/-- A class replaced by one that finds the same: every address hits as before. -/
theorem dHit_setDClass {s : State} {i : BitVec 8} {c : DClass} (h : ∀ t, c.find t = (s.dClass i).find t) (a : Word) :
    (s.setDClass i c).dHit a = s.dHit a := by
  unfold State.dHit
  rw [dClass_setDClass]
  split
  · rename_i e; rw [h, e]
  · rfl

/-- Two addresses whose hits are the same line lie in the same block. -/
theorem blockOf_eq_of_dHit {s : State} {a b : Word} {w : Way} (ha : s.dHit a = some w) (hb : s.dHit b = some w)
    (hi : classIndex a = classIndex b) : blockOf a = blockOf b := by
  have hta := DClass.tag_of_find ha
  have htb := DClass.tag_of_find hb
  rw [hi] at hta
  exact blockOf_eq_iff.mpr ⟨hi, hta.symm.trans htb⟩

theorem dataByte_of_dHit {s : State} {a : Word} {w : Way} (h : s.dHit a = some w) :
    s.dataByte a = lineByte ((s.dClass (classIndex a)).line w).data (lineOffset a) := by
  simp [State.dataByte, h]

/-- The bytes of a scalar within one word that hits are those of its line. -/
theorem dataBytes_of_dHit {s : State} {ea : Word} {n : Nat} {w : Way} (hd : s.dHit ea = some w)
    (hw : ea.toNat % 4 + n ≤ 4) :
    s.dataBytes ea n = lineBytes ((s.dClass (classIndex ea)).line w).data (lineOffset ea) n := by
  refine List.map_congr_left fun k hk => ?_
  obtain ⟨hb, ho⟩ := within_word_add hw (List.mem_range.mp hk)
  rw [dataByte_of_dHit ((dHit_congr s hb).trans hd), (blockOf_eq_iff.mp hb).1, ho]

/-! ### Accesses that hit (R164, R165) -/

theorem loadPart_hit {s : State} {x : Xlat} {w : Way} (n : Nat) (ho : x.ocm = false) (hi : x.attr.i = false)
    (hd : s.dHit x.ra = some w) : loadPart x n s = .ok (goodBytes (hitLoad x n w s).1) (hitLoad x n w s).2 := by
  simp [loadPart, ho, hi, hd, received]

theorem storePart_hit {s : State} {x : Xlat} {w : Way} (bs : List Byte) (ho : x.ocm = false) (hi : x.attr.i = false)
    (hw : x.attr.w = false) (hf : s.dfb = none) (hd : s.dHit x.ra = some w) :
    storePart x bs s = .ok () (hitStore x bs w s) := by
  simp [storePart, dropFillBuffer, hf, ho, hi, hw, hd]

theorem hitLoad_dHit (x : Xlat) (n : Nat) (w : Way) (s : State) (a : Word) : (hitLoad x n w s).2.dHit a = s.dHit a :=
  dHit_setDClass (DClass.find_touch _ _) a

theorem hitStore_dHit (x : Xlat) (bs : List Byte) (w : Way) (s : State) (a : Word) :
    (hitStore x bs w s).dHit a = s.dHit a :=
  dHit_setDClass (fun t => (DClass.find_touch _ _ _).trans (DClass.find_setLine (by rfl) (by rfl) t)) a

theorem hitLoad_bytes {x : Xlat} {n : Nat} {w : Way} {s : State} (hd : s.dHit x.ra = some w)
    (hw : x.ra.toNat % 4 + n ≤ 4) : (hitLoad x n w s).1 = s.dataBytes x.ra n := (dataBytes_of_dHit hd hw).symm

/-- A load marks its line as used, and leaves every line as it is. -/
theorem hitLoad_line (x : Xlat) (n : Nat) (w : Way) (s : State) (i : BitVec 8) (v : Way) :
    ((hitLoad x n w s).2.dClass i).line v = (s.dClass i).line v := by
  simp only [hitLoad, dClass_setDClass]
  split
  · rename_i e; rw [DClass.line_touch, e]
  · rfl

theorem hitLoad_lru (x : Xlat) (n : Nat) (w : Way) (s : State) :
    ((hitLoad x n w s).2.dClass (classIndex x.ra)).lru = (w == .a) := by
  simp only [hitLoad, dClass_setDClass_self, DClass.touch]

theorem hitStore_lru (x : Xlat) (bs : List Byte) (w : Way) (s : State) :
    ((hitStore x bs w s).dClass (classIndex x.ra)).lru = (w == .a) := by
  simp only [hitStore, dClass_setDClass_self, DClass.touch]

/-- A store replaces its bytes in the line it hits, and leaves every other line as it is. -/
theorem hitStore_line (x : Xlat) (bs : List Byte) (w : Way) (s : State) (i : BitVec 8) (v : Way) :
    ((hitStore x bs w s).dClass i).line v =
      if i = classIndex x.ra ∧ v = w then
        { (s.dClass i).line w with
          data := setLineBytes ((s.dClass i).line w).data (lineOffset x.ra) bs
          dirty := ((s.dClass i).line w).dirty || !x.attr.w }
      else (s.dClass i).line v := by
  simp only [hitStore, dClass_setDClass]
  by_cases hi : i = classIndex x.ra
  · subst hi
    by_cases hv : v = w <;> simp [DClass.line_touch, DClass.line_setLine, hv]
  · simp [hi]

theorem hitLoad_dataByte (x : Xlat) (n : Nat) (w : Way) (s : State) (a : Word) :
    (hitLoad x n w s).2.dataByte a = s.dataByte a := by
  simp only [State.dataByte, hitLoad_dHit, hitLoad_line]
  rfl

/-- What the data side reads after a store of bytes, within one word, that hits. -/
theorem hitStore_dataByte {x : Xlat} {bs : List Byte} {w : Way} {s : State} (hd : s.dHit x.ra = some w)
    (hw : x.ra.toNat % 4 + bs.length ≤ 4) (a : Word) :
    (hitStore x bs w s).dataByte a =
      if (a - x.ra).toNat < bs.length then bs.getD (a - x.ra).toNat 0#8 else s.dataByte a := by
  by_cases hb : blockOf a = blockOf x.ra
  · have hda : s.dHit a = some w := (dHit_congr s hb).trans hd
    have ho : lineOffset x.ra + bs.length ≤ 32 := by rw [lineOffset_eq]; omega
    have hcond := sub_lt_iff_of_blockOf_eq (n := bs.length) hb (by omega)
    rw [dataByte_of_dHit ((hitStore_dHit x bs w s a).trans hda), dataByte_of_dHit hda, hitStore_line,
      if_pos ⟨(blockOf_eq_iff.mp hb).1, rfl⟩, lineByte_setLineBytes _ _ ho (lineOffset_lt a)]
    simp only [← hcond]
    split
    · rename_i hlt
      rw [(within_word_sub hw hlt).2, Nat.add_sub_cancel_left]
    · rfl
  · rw [if_neg fun hlt => hb (within_word_sub hw hlt).1]
    simp only [State.dataByte, hitStore_dHit]
    cases hda : s.dHit a with
    | none => rfl
    | some v =>
      have hother : ¬ (classIndex a = classIndex x.ra ∧ v = w) := by
        rintro ⟨hi, rfl⟩
        exact hb (blockOf_eq_of_dHit hda hd hi)
      simp only [hitStore_line, if_neg hother]

/-- A store that hits in write-back storage makes its line dirty (R165). -/
theorem hitStore_dirtyAt {x : Xlat} (bs : List Byte) {w : Way} {s : State} (hw : x.attr.w = false)
    (hd : s.dHit x.ra = some w) : Claims.dirtyAt (hitStore x bs w s) x.ra = true := by
  simp [Claims.dirtyAt, hitStore_dHit, hd, hitStore_line, hw]

theorem hitLoad_dirtyAt (x : Xlat) (n : Nat) (w : Way) (s : State) (a : Word) :
    Claims.dirtyAt (hitLoad x n w s).2 a = Claims.dirtyAt s a := by
  simp only [Claims.dirtyAt, hitLoad_dHit, hitLoad_line]

/-! ### Scalars within one word -/

theorem parts_scalar_within {ea : Word} {n : Nat} (hn : 0 < n) (hw : ea.toNat % 4 + n ≤ 4) :
    (scalar ea n).parts = [{ ea := ea, len := n, dac := ea }] := by
  obtain ⟨m, rfl⟩ : ∃ m, n = m + 1 := ⟨n - 1, by omega⟩
  have hk : min (m + 1) (4 - ea.toNat % 4) = m + 1 := by omega
  simp [Operand.parts, scalar, pieces, hk]

/-- In a calm state a scalar load within one word is the load of its one part. -/
theorem loadScalar_within {s t : State} (h : s.calmData) (ht : t.calmData) {ea : Word} {n : Nat} (hn : 0 < n)
    (hw : ea.toNat % 4 + n ≤ 4) (he : (realXlat s ea).attr.e = false) {bs : List Byte} (hb : bs.length = n)
    (hl : loadPart (realXlat s ea) n { s with synced := false } = .ok (goodBytes bs) t) (rD : Reg) (f : Word → Word) :
    loadScalar rD ea n none f s = .ok (f (ofBytes bs)) t := by
  have hp := parts_scalar_within hn hw
  have hwhole : (scalar ea n).loadWhole [realXlat s ea] { s with synced := false } =
      .ok { values := [bs], failed := [] } t := by
    have hu : (scalar ea n).unit = n := rfl
    have hs : (scalar ea n).single = true := rfl
    have hn0 : n ≠ 0 := by omega
    simp [Operand.loadWhole, accessed_off (calm_dbcr1 (calm_unsynced h)), hp, loadParts, loadWithin, hs, hl, Res.bind,
      dvcAfter_off (calm_dbcr1 ht), Operand.loaded, Operand.values, hu, hn0, orders, he, valuesOf, goodBytes, hb, failedWords,
      List.take_of_length_le]
  have hload : loadOperand (scalar ea n) none (putScalar rD) s = .ok { values := [bs], failed := [] } t := by
    simp only [loadOperand, beginAccess_calm h, Res.bind, hp, List.map_cons, List.map_nil]
    exact interruptible_quiet hwhole ht.quiet
  simp [loadScalar, hload, Res.bind]

/-- A scalar store within one word, likewise. -/
theorem storeScalar_within {s t : State} (h : s.calmData) (ht : t.calmData) {ea : Word} {n : Nat} (hn : 0 < n)
    (hw : ea.toNat % 4 + n ≤ 4) (he : (realXlat s ea).attr.e = false) (v : Word)
    (hl : storePart (realXlat s ea) (bytesOf n v) { s with synced := false } = .ok () t) :
    storeScalar ea n none v s = .ok () t := by
  have hp := parts_scalar_within hn hw
  have hwhole : (scalar ea n).storeWhole [bytesOf n v] [realXlat s ea] { s with synced := false } = .ok () t := by
    have hu : (scalar ea n).unit = n := rfl
    have hn0 : n ≠ 0 := by omega
    simp [Operand.storeWhole, accessed_off (calm_dbcr1 (calm_unsynced h)), hp, storeParts, Operand.bytes, hu, hn0, orders, he,
      memoryOrder, hl, Res.bind, dvcAfter_off (calm_dbcr1 ht), List.take_of_length_le]
  simp only [storeScalar, storeOperand, beginAccess_calm h, Res.bind, hp, List.map_cons, List.map_nil]
  exact interruptible_quiet hwhole ht.quiet

/-! ### Words in write-back storage that hit -/

/-- The translation of an address of cacheable write-back big-endian storage in real mode. -/
theorem realXlat_writeBack {s : State} {ea : Word} (hs : s.stale = []) (hr : s.writeBackRegion ea)
    (ho : regionBit s.spr.sler ea = false) :
    let x := realXlat s ea
    x.ra = ea ∧ x.ocm = false ∧ x.attr.i = false ∧ x.attr.w = false ∧ x.attr.e = false := by
  obtain ⟨hc, hw, hm⟩ := hr
  simp [realXlat, placed, State.realDataAttr, inForce_settled hs, State.current, hc, hw, hm, ho]

/-- A word loaded from a line that hits. -/
theorem lwzx_hit {rD rA rB : Reg} {s : State} {w : Way} (h : s.calmData) (hr : s.writeBackRegion (s.eaX rA rB))
    (ho : regionBit s.spr.sler (s.eaX rA rB) = false) (hd : s.dHit (s.eaX rA rB) = some w)
    (ha : (s.eaX rA rB).toNat % 4 = 0) :
    exec (.lwzx rD rA rB) s =
      done ((hitLoad (realXlat s (s.eaX rA rB)) 4 w { s with synced := false }).2.setReg rD
        (BitVec.ofNat 32 (s.number false (s.eaX rA rB) 4))) := by
  obtain ⟨hra, hocm, hi, -, he⟩ := realXlat_writeBack h.settled hr ho
  have hload := loadPart_hit (s := { s with synced := false }) 4 hocm hi (by rw [hra]; exact hd)
  have hcalm : (hitLoad (realXlat s (s.eaX rA rB)) 4 w { s with synced := false }).2.calmData :=
    ⟨h.settled, h.real, h.u0, h.dbcr1, h.dfb, h.quiet⟩
  have hbytes : (hitLoad (realXlat s (s.eaX rA rB)) 4 w { s with synced := false }).1 = s.dataBytes (s.eaX rA rB) 4 := by
    have hline := hitLoad_bytes (s := { s with synced := false }) (x := realXlat s (s.eaX rA rB)) (n := 4)
      (by rw [hra]; exact hd) (by rw [hra]; omega)
    rwa [hra] at hline
  rw [hbytes] at hload
  have hscalar := loadScalar_within h hcalm (by decide) (by omega) he (by simp [State.dataBytes]) hload rD id
  change (loadScalar rD (s.eaX rA rB) 4 none id s).andThen _ = _
  rw [hscalar, id, ofBytes_eq]
  rfl

/-- A word stored in a line that hits. -/
theorem stwx_hit {rS rA rB : Reg} {s : State} {w : Way} (h : s.calmData) (hr : s.writeBackRegion (s.eaX rA rB))
    (ho : regionBit s.spr.sler (s.eaX rA rB) = false) (hd : s.dHit (s.eaX rA rB) = some w)
    (ha : (s.eaX rA rB).toNat % 4 = 0) :
    exec (.stwx rS rA rB) s =
      done (hitStore (realXlat s (s.eaX rA rB)) (bytesOf 4 (s.reg rS)) w { s with synced := false }) := by
  obtain ⟨hra, hocm, hi, hw, he⟩ := realXlat_writeBack h.settled hr ho
  have hstore := storePart_hit (s := { s with synced := false }) (bytesOf 4 (s.reg rS)) hocm hi hw h.dfb
    (by rw [hra]; exact hd)
  have hcalm : (hitStore (realXlat s (s.eaX rA rB)) (bytesOf 4 (s.reg rS)) w { s with synced := false }).calmData :=
    ⟨h.settled, h.real, h.u0, h.dbcr1, h.dfb, h.quiet⟩
  have hscalar := storeScalar_within h hcalm (by decide) (by omega) he (s.reg rS) hstore
  change (storeScalar (s.eaX rA rB) 4 none (s.reg rS) s).andThen _ = _
  rw [hscalar]
  rfl

/-- Settles O43: it holds. A word that hits is one part, served by `hitLoad` or `hitStore`. -/
theorem cacheHitsServeWords : Obligations.CacheHitsServeWords := by
  unfold Obligations.CacheHitsServeWords
  intro rD rA rB s h ea uses hr ho hd ha
  obtain ⟨w, hd⟩ := Option.isSome_iff_exists.mp hd
  obtain ⟨hra, -, -, hw, -⟩ := realXlat_writeBack h.settled hr ho
  have hlru {v : Way} {b : Bool} (hv : s.dHit ea = some v) (hb : b = (w == Way.a)) : b = (v == Way.a) := by
    rw [hb, Option.some.inj (hd.symm.trans hv)]
  refine ⟨⟨_, lwzx_hit h hr ho hd ha, rfl, ?_, ?_, ⟨?_, ?_⟩, ?_⟩, _, stwx_hit h hr ho hd ha, rfl, ⟨?_, ?_⟩, ?_, ?_⟩
  · exact fun a => ⟨hitLoad_dataByte _ 4 w { s with synced := false } a, rfl, rfl⟩
  · exact ⟨reg_setReg_self _ _ _, fun q hq => reg_setReg_ne _ _ hq⟩
  · exact hitLoad_dHit _ 4 w { s with synced := false }
  · exact fun v hv => hlru hv (hra ▸ hitLoad_lru (realXlat s ea) 4 w { s with synced := false })
  · exact hitLoad_dirtyAt _ 4 w { s with synced := false } ea
  · exact hitStore_dHit _ _ w { s with synced := false }
  · exact fun v hv => hlru hv (hra ▸ hitStore_lru (realXlat s ea) (bytesOf 4 (s.reg rD)) w { s with synced := false })
  · exact hra ▸ hitStore_dirtyAt (s := { s with synced := false }) (bytesOf 4 (s.reg rD)) hw (by rw [hra]; exact hd)
  · intro a
    have hstored := hitStore_dataByte (x := realXlat s ea) (bs := bytesOf 4 (s.reg rD)) (s := { s with synced := false })
      (by rw [hra]; exact hd) (by rw [hra, length_bytesOf]; omega) a
    rw [hra, length_bytesOf] at hstored
    refine hstored.trans ?_
    split
    · rw [getD_bytesOf _ _ ‹_›]
    · rfl

/-! ### Lines made of words -/

/-- Consecutive words of memory. -/
def Memory.readWords (m : Memory) (a : Word) : Nat → List Word
  | 0 => []
  | n + 1 => m.readWord a :: m.readWords (a + 4#32) n

/-- A byte at the end of a value, in a line. -/
theorem setWidth_append_byte {n : Nat} (x : BitVec n) (b : Byte) :
    (x ++ b).setWidth 256 = (x.setWidth 256 <<< 8) ||| b.setWidth 256 := by
  apply BitVec.eq_of_getLsbD_eq
  intro i hi
  simp only [BitVec.getLsbD_setWidth, BitVec.getLsbD_append, BitVec.getLsbD_or, BitVec.getLsbD_shiftLeft]
  by_cases h : i < 8
  · simp [h, hi]
  · simp [h, hi, BitVec.getLsbD_of_ge b i (by omega), show i - 8 < 256 by omega]

/-- Four bytes put at the end of a line as a word, or one by one. -/
theorem shiftLeft_or_append_four (l : BitVec 256) (a b c d : Byte) :
    (l <<< 32) ||| (a ++ b ++ c ++ d).setWidth 256 =
      (((((l <<< 8 ||| a.setWidth 256) <<< 8) ||| b.setWidth 256) <<< 8 ||| c.setWidth 256) <<< 8) ||| d.setWidth 256 := by
  simp only [setWidth_append_byte, BitVec.shiftLeft_or_distrib, ← BitVec.shiftLeft_add, BitVec.or_assoc,
    Nat.reduceAdd]

/-- A line made of words of memory is made of their bytes. -/
theorem foldl_readWords (m : Memory) (a : Word) (n : Nat) (acc : BitVec 256) :
    (m.readWords a n).foldl (fun (l : BitVec 256) w => (l <<< 32) ||| w.setWidth 256) acc =
      (m.readBytes a (4 * n)).foldl (fun (l : BitVec 256) b => (l <<< 8) ||| b.setWidth 256) acc := by
  induction n generalizing a acc with
  | zero => rfl
  | succ n ih =>
    rw [Memory.readWords, List.foldl_cons, ih, Memory.readWord, shiftLeft_or_append_four]
    simp only [show 4 * (n + 1) = 4 * n + 1 + 1 + 1 + 1 by omega, Memory.readBytes, List.foldl_cons, BitVec.add_assoc,
      BitVec.reduceAdd]

theorem lineOfWords_readWords (m : Memory) (a : Word) : lineOfWords (m.readWords (lineAlign a) 8) = m.readLine a :=
  foldl_readWords m (lineAlign a) 8 0#256

/-- A word of a line is its four bytes. -/
theorem lineWord_eq_lineBytes (d : BitVec 256) {j : Nat} (hj : j < 8) :
    lineWord d j = lineByte d (4 * j) ++ lineByte d (4 * j + 1) ++ lineByte d (4 * j + 2) ++ lineByte d (4 * j + 3) := by
  simp only [lineWord, lineByte]
  rw [BitVec.extractLsb'_append_extractLsb'_eq_extractLsb' (by omega),
    BitVec.extractLsb'_append_extractLsb'_eq_extractLsb' (by omega),
    BitVec.extractLsb'_append_extractLsb'_eq_extractLsb' (by omega)]
  congr 1
  omega

/-- The word at an address, read from a line that has the bytes of memory in its block. -/
theorem lineWord_readLine (m : Memory) (a : Word) : lineWord (m.readLine a) (lineOffset a / 4) = m.readWord (wordAlign a) := by
  have hbyte (k : Nat) (hk : k < 4) :
      lineByte (m.readLine a) (4 * (lineOffset a / 4) + k) = m.read (wordAlign a + BitVec.ofNat 32 k) := by
    have ha := toNat_wordAlign a
    obtain ⟨hb, ho⟩ := within_word_add (a := wordAlign a) (n := 4) (by omega) hk
    rw [← lineByte_readLine, readLine_congr m (hb.trans (blockOf_wordAlign a)), ho]
    congr 1
    simp only [lineOffset_eq, ha]
    omega
  have hfirst : lineByte (m.readLine a) (4 * (lineOffset a / 4)) = m.read (wordAlign a) := by simpa using hbyte 0 (by decide)
  have hj : lineOffset a / 4 < 8 := by have := lineOffset_lt a; omega
  rw [lineWord_eq_lineBytes _ hj, hfirst, hbyte 1 (by decide), hbyte 2 (by decide), hbyte 3 (by decide)]
  rfl

/-! ### Copies of an instruction word (R163, R183) -/

theorem pickWord_light (now : Word) (others : List Word) (s : State) :
    (pickWord now others s).2 = { s with draws := (pickWord now others s).2.draws } := by
  unfold pickWord
  split <;> rfl

/-- The word picked is the present one or one of the others. -/
theorem pickWord_mem (now : Word) (others : List Word) (s : State) :
    (pickWord now others s).1 = now ∨ (pickWord now others s).1 ∈ others := by
  unfold pickWord
  split
  · exact .inl rfl
  · rename_i o os e
    simp only [List.getD_eq_getElem?_getD]
    cases hget : (o :: os)[(drawBelow (os.length + 2) s).1]? with
    | none => exact .inl rfl
    | some v => exact .inr (List.mem_of_mem_filter (e ▸ List.mem_of_getElem? hget))

@[simp] theorem pickWord_nil (now : Word) (s : State) : pickWord now [] s = (now, s) := rfl

@[simp] theorem endianWord_false (w : Word) : endianWord false w = w := rfl

@[simp] theorem map_endianWord_false (ws : List Word) : ws.map (endianWord false) = ws := List.map_id ws

theorem mem_wordsAt {old : List (Nat × Word)} {ra v : Word} (h : v ∈ wordsAt old ra) : (wordOf ra, v) ∈ old := by
  simpa [wordsAt] using h

/-- Where the data cache has no copy, only words from before a write are left. -/
theorem busCopies_of_dHit_none {s : State} {ra : Word} (h : s.dHit ra = none) : s.busCopies ra = wordsAt s.oldMem ra := by
  simp [State.busCopies, h]

theorem mem_lineCopies {s : State} {ra v : Word} (h : v ∈ s.lineCopies ra) :
    ∃ l ∈ s.oldLines, l.block = blockOf ra ∧ v = lineWord l.data (lineOffset ra / 4) := by
  obtain ⟨l, hl, rfl⟩ := List.mem_map.mp h
  obtain ⟨hmem, hblock⟩ := List.mem_filter.mp hl
  exact ⟨l, hmem, by simpa using hblock, rfl⟩

/-! ### Words read over the bus -/

theorem memWord_ram {s : State} {a : Word} (h : ∀ k, k < 4 → s.memKind (a + BitVec.ofNat 32 k) = .ram) :
    memWord a s = (s.mem.readWord a, s) := by
  have h0 : s.memKind a = .ram := by simpa using h 0 (by decide)
  have h1 : s.memKind (a + 1#32) = .ram := h 1 (by decide)
  have h2 : s.memKind (a + 2#32) = .ram := h 2 (by decide)
  have h3 : s.memKind (a + 3#32) = .ram := h 3 (by decide)
  simp [memWord, busByte, State.isMemory, h0, h1, h2, h3, Memory.readWord]

/-- A fetch over the bus gives the word in memory or an older copy of it. -/
theorem busFetchWord_ram {s : State} {x : Xlat} (he : x.attr.e = false)
    (h : ∀ k, k < 4 → s.memKind (wordAlign x.ra + BitVec.ofNat 32 k) = .ram) (hd : s.dHit (wordAlign x.ra) = none) :
    ∃ v t, busFetchWord x s = (v, t) ∧ t = { s with busFetch := true, draws := t.draws } ∧
      (v = s.mem.readWord (wordAlign x.ra) ∨ v ∈ wordsAt (s.oldMem ++ s.oldCode) (wordAlign x.ra) ∨
        v ∈ s.lineCopies (wordAlign x.ra)) := by
  have hm : memWord (wordAlign x.ra) { s with busFetch := true } =
      (s.mem.readWord (wordAlign x.ra), { s with busFetch := true }) := memWord_ram (s := { s with busFetch := true }) h
  have hold : wordsAt (s.oldMem ++ s.oldCode) (wordAlign x.ra) =
      s.busCopies (wordAlign x.ra) ++ wordsAt s.oldCode (wordAlign x.ra) := by
    simp [busCopies_of_dHit_none hd, wordsAt]
  refine ⟨(busFetchWord x s).1, (busFetchWord x s).2, rfl, ?_, ?_⟩
  · simp only [busFetchWord, hm]
    exact pickWord_light _ _ _
  · simp only [busFetchWord, hm, he, hold, endianWord_false, map_endianWord_false, ← List.mem_append]
    exact pickWord_mem _ _ _

/-- A run of instruction words in big-endian memory of which no copy is left. -/
theorem codeWords_ram {s : State} {a : Word} {n : Nat} (ho : s.oldMem = [])
    (h : ∀ k, k < 4 * n → s.memKind (a + BitVec.ofNat 32 k) = .ram ∧ s.dHit (a + BitVec.ofNat 32 k) = none) :
    codeWords false a n s = (s.mem.readWords a n, s) := by
  induction n generalizing a with
  | zero => rfl
  | succ n ih =>
    have hd : s.dHit a = none := by simpa using (h 0 (by omega)).2
    have hnext (k : Nat) (hk : k < 4 * n) :
        s.memKind (a + 4#32 + BitVec.ofNat 32 k) = .ram ∧ s.dHit (a + 4#32 + BitVec.ofNat 32 k) = none := by
      have := h (4 + k) (by omega)
      rwa [BitVec.ofNat_add, ← BitVec.add_assoc] at this
    have hm := memWord_ram fun k hk => (h k (by omega)).1
    have hc : s.busCopies a = [] := by rw [busCopies_of_dHit_none hd, ho]; rfl
    simp only [codeWords, hm, hc, pickWord_nil, ih hnext, endianWord_false, Memory.readWords]

/-! ### Lines of the instruction cache (R160 to R162) -/

theorem iClass_setIClass (s : State) (i j : BitVec 8) (c : IClass) :
    (s.setIClass i c).iClass j = if j = i then c else s.iClass j := by
  by_cases h : j = i
  · subst h; simp
  · simp [h, iClass_setIClass_ne s c h]

/-- An address that misses is in no valid line of its class. -/
theorem tag_ne_of_iHit_none {s : State} {ea ra : Word} (h : s.iHit ea ra = none) (w : Way)
    (hv : ((s.iClass (classIndex ea)).line w).valid = true) : ((s.iClass (classIndex ea)).line w).tag ≠ iTag ra := by
  simp only [State.iHit, Bool.and_eq_true, beq_iff_eq] at h
  split at h
  case isTrue => cases h
  case isFalse ha =>
    split at h
    case isTrue => cases h
    case isFalse hb =>
      cases w with
      | a => exact fun e => ha ⟨hv, e⟩
      | b => exact fun e => hb ⟨hv, e⟩

theorem iClass_placeILine (i : BitVec 8) (w : Way) (l : ILine) (s : State) :
    (placeILine i w l s).iClass i = ((s.iClass i).setLine w l).touch w :=
  iClass_setIClass_self _ _ _

/-- A line placed for an address that missed is the one that hits. -/
theorem iHit_placeILine {s : State} {ea ra : Word} (h : s.iHit ea ra = none) (w : Way) {l : ILine} (hv : l.valid = true)
    (ht : l.tag = iTag ra) : (placeILine (classIndex ea) w l s).iHit ea ra = some w := by
  have hmiss := tag_ne_of_iHit_none h
  cases w
  · simp [State.iHit, iClass_placeILine, IClass.touch, IClass.setLine, hv, ht]
  · have ha := hmiss .a
    simp only [IClass.line] at ha
    simpa [State.iHit, iClass_placeILine, IClass.touch, IClass.setLine, hv, ht] using ha

theorem line_placeILine (i : BitVec 8) (w : Way) (l : ILine) (s : State) : ((placeILine i w l s).iClass i).line w = l := by
  rw [iClass_placeILine]
  cases w <;> rfl

theorem IClass.line_touch (c : IClass) (w v : Way) : (c.touch w).line v = c.line v := by cases v <;> rfl

/-- Marking a line as used changes no hit. -/
theorem iHit_touch (s : State) (i : BitVec 8) (w : Way) (ea ra : Word) :
    (s.setIClass i ((s.iClass i).touch w)).iHit ea ra = s.iHit ea ra := by
  simp only [State.iHit, iClass_setIClass]
  split
  · rename_i e; rw [e]; rfl
  · rfl

/-- A line in the class that an address selects as effective and as physical address is of its block if it has its tag (R160). -/
theorem iBlock_eq_blockOf_iff {a : Word} {t : BitVec 22} : iBlock (classIndex a) t = blockOf a ↔ t = iTag a := by
  have := a.isLt; have := t.isLt
  simp only [iBlock, blockOf, classIndex, iTag, ← BitVec.toNat_inj, BitVec.toNat_append, BitVec.extractLsb'_toNat,
    Nat.shiftRight_eq_div_pow]
  rw [← Nat.shiftLeft_add_eq_or_of_lt (by omega), Nat.shiftLeft_eq]
  omega

/-- The line that makes room for the block of an address that missed holds no copy of its words. -/
theorem lineCopies_placeILine {s : State} {a b : Word} (h : s.iHit a a = none) (ho : s.oldLines = []) (w : Way) (l : ILine)
    (hb : blockOf b = blockOf a) : (placeILine (classIndex a) w l s).lineCopies b = [] := by
  have hleft : ∀ o ∈ ((s.iClass (classIndex a)).line w).left (classIndex a), o.block ≠ blockOf b := by
    intro o hm
    unfold ILine.left at hm
    split at hm
    · rename_i hv
      rw [List.mem_singleton.mp hm, hb]
      exact fun e => tag_ne_of_iHit_none h w hv (iBlock_eq_blockOf_iff.mp e)
    · cases hm
  simpa [State.lineCopies, placeILine, ho] using hleft

/-- The line that a fill from big-endian memory places. -/
def filledLine (m : Memory) (ra : Word) : ILine :=
  { valid := true, tag := iTag ra, data := m.readLine ra, little := false }

/-- A line filled from big-endian memory of which no copy is left (R162): the block of memory, in one of the ways. -/
theorem iFill_ram {s : State} (ea : Word) {ra : Word} (ho : s.oldMem = [])
    (h : ∀ a, blockOf a = blockOf ra → s.memKind a = .ram ∧ s.dHit a = none) :
    ∃ w v, v = { s with draws := v.draws } ∧ iFill ea ra false s = placeILine (classIndex ea) w (filledLine s.mem ra) v := by
  have hwords := codeWords_ram (n := 8) ho fun k hk => h _ (blockOf_lineAlign_add ra hk)
  refine ⟨(iVictim (classIndex ea) s).1, (iVictim (classIndex ea) s).2, ?_, ?_⟩
  · unfold iVictim
    simp only []
    split <;> rfl
  · simp only [iFill, hwords, lineOfWords_readWords]
    rfl

/-- A line that agrees with memory gives its word where no other copy of the word is left. -/
theorem hitFetch_agrees {s : State} {ea : Word} {x : Xlat} {w : Way}
    (hl : ((s.iClass (classIndex ea)).line w).little = false)
    (hm : lineWord ((s.iClass (classIndex ea)).line w).data (lineOffset ea / 4) = s.mem.readWord (wordAlign x.ra))
    (hd : s.dHit (wordAlign x.ra) = none) (ho : s.oldMem = []) (hc : s.oldCode = [])
    (hlines : s.lineCopies (wordAlign x.ra) = []) :
    hitFetch ea x w s =
      (s.mem.readWord (wordAlign x.ra), s.setIClass (classIndex ea) ((s.iClass (classIndex ea)).touch w)) := by
  have hbus : s.busCopies (wordAlign x.ra) = [] := by rw [busCopies_of_dHit_none hd, ho]; rfl
  have hmem : ∀ v ∈ s.memCopies (wordAlign x.ra), v = s.mem.readWord (wordAlign x.ra) := by
    unfold State.memCopies
    split <;> simp
  have hothers : (s.memCopies (wordAlign x.ra) ++ s.busCopies (wordAlign x.ra) ++ wordsAt s.oldCode (wordAlign x.ra)).filter
      (fun v => endianWord false v != s.mem.readWord (wordAlign x.ra)) = [] := by
    rw [hbus, hc]
    simpa [wordsAt] using hmem
  simp only [hitFetch, hl, hm, hothers, hlines, List.map_nil, List.append_nil, pickWord_nil]

/-- So does the line just filled, for an address that missed. -/
theorem hitFetch_filledLine {s : State} {x : Xlat} (hi : s.iHit x.ra x.ra = none) (hold : Claims.noOldCode s)
    (hd : s.dHit (wordAlign x.ra) = none) (w : Way) :
    let u := placeILine (classIndex x.ra) w (filledLine s.mem x.ra) s
    hitFetch x.ra x w u =
      (s.mem.readWord (wordAlign x.ra), u.setIClass (classIndex x.ra) ((u.iClass (classIndex x.ra)).touch w)) := by
  obtain ⟨hmem, hcode, hlines⟩ := hold
  have hline := line_placeILine (classIndex x.ra) w (filledLine s.mem x.ra) s
  exact hitFetch_agrees (by rw [hline]; rfl) (by rw [hline]; exact lineWord_readLine s.mem x.ra) hd hmem hcode
    (lineCopies_placeILine hi hlines w _ (blockOf_wordAlign x.ra))

theorem lineError_ram {s : State} {a : Word} (h : ∀ b, blockOf b = blockOf a → s.memKind b = .ram) : s.lineError a = false :=
  anyKind_false (by decide) fun _ hk => h _ (blockOf_lineAlign_add a hk)

theorem fetchLine_ram {s : State} (ea : Word) {x : Xlat} (w : Way) (h : ∀ b, blockOf b = blockOf x.ra → s.memKind b = .ram) :
    fetchLine ea x w s = .word (hitFetch ea x w s).1 (hitFetch ea x w s).2 := by
  simp [fetchLine, lineError_ram h]

/-! ### Fetching in real mode (R145) -/

theorem ir_eq_false {s : State} (h : Claims.fetchesReal s) : s.ir = false := by
  simp [State.ir, inForce_settled h.settled, State.current, h.real]

/-- The translation of the pc for fetching in real mode from big-endian storage that is not on-chip memory. -/
theorem fetchCheck_fetching {s : State} (h : Claims.fetching s) :
    ∃ x, fetchCheck s.pc s = .ok x s ∧ x.ra = s.pc ∧ x.ocm = false ∧ x.attr.e = false ∧
      x.attr.i = !regionBit s.spr.iccr s.pc := by
  refine ⟨placed false s.pc s.pc (s.realFetchAttr s.pc), ?_, rfl, rfl, ?_, ?_⟩
  · simp [fetchCheck, ir_eq_false h.tofetchesReal, h.offChip]
  · simp [placed, State.realFetchAttr, inForce_settled h.settled, State.current, h.order]
  · simp [placed, State.realFetchAttr, inForce_settled h.settled, State.current]

/-- On-chip memory: its word, and nothing changes (D6). -/
theorem fetch_onChip {s : State} (h : Claims.fetchesReal s) (ho : ocmHolds s.env.instrOcm s.pc = true) :
    fetch s.pc s = .word (s.instrOcm.readWord (wordAlign s.pc)) s := by
  simp [fetch, fetchCheck, ir_eq_false h, ho, placed, State.realFetchAttr, inForce_settled h.settled, State.current, h.order]

/-- A fetch that needs the bus within Sequence 1 (70_reset_and_hazards.md R950). -/
theorem fetch_open {s : State} (h : Claims.fetching s) (ho : s.ccr0Open = true) (hi : s.iHit s.pc s.pc = none) :
    fetch s.pc s = .fault .ccr0OutsideSequence := by
  obtain ⟨x, hx, hra, hocm, -, -⟩ := fetchCheck_fetching h
  simp [fetch, hx, hra, hocm, hi, ho]

/-- Non-cacheable storage: a fetch over the bus (R163). -/
theorem fetch_inhibited {s : State} (h : Claims.fetching s) (ho : s.ccr0Open = false) (hi : s.iHit s.pc s.pc = none)
    (hc : regionBit s.spr.iccr s.pc = false)
    (hm : ∀ k, k < 4 → s.memKind (wordAlign s.pc + BitVec.ofNat 32 k) = .ram) (hd : s.dHit (wordAlign s.pc) = none) :
    ∃ v t, fetch s.pc s = .word v t ∧ t = { s with busFetch := true, draws := t.draws } ∧
      (v = s.mem.readWord (wordAlign s.pc) ∨ v ∈ wordsAt (s.oldMem ++ s.oldCode) (wordAlign s.pc) ∨
        v ∈ s.lineCopies (wordAlign s.pc)) := by
  obtain ⟨x, hx, hra, hocm, he, hxi⟩ := fetchCheck_fetching h
  rw [← hra] at hm hd
  obtain ⟨v, t, hv, ht, hcopy⟩ := busFetchWord_ram he hm hd
  have herr : s.wordError x.ra = false := anyKind_false (by decide) hm
  rw [hra] at herr hcopy
  exact ⟨v, t, by simp [fetch, hx, hra, hocm, hi, ho, herr, hxi, hc, hv], ht, hcopy⟩

/-- A hit in the instruction cache: a fetch from the line. -/
theorem fetch_hit {s : State} {y : Way} (h : Claims.fetching s) (hc : regionBit s.spr.iccr s.pc = true)
    (hi : s.iHit s.pc s.pc = some y) : ∃ x, x.ra = s.pc ∧ fetch s.pc s = fetchLine s.pc x y s := by
  obtain ⟨x, hx, hra, hocm, -, hxi⟩ := fetchCheck_fetching h
  exact ⟨x, hra, by simp [fetch, hx, hra, hocm, hi, hxi, hc]⟩

/-- A miss with CCR0[FWOA] = 0: a line fill, and a fetch from the line (R162). -/
theorem fetch_miss {s u : State} {y : Way} (h : Claims.fetching s) (hc : regionBit s.spr.iccr s.pc = true)
    (hf : bit s.spr.ccr0 23 = false) (ho : s.ccr0Open = false) (hi : s.iHit s.pc s.pc = none)
    (hm : ∀ a, blockOf a = blockOf s.pc → s.memKind a = .ram)
    (hu : iFill s.pc s.pc false { s with busFetch := true } = u) (hy : u.iHit s.pc s.pc = some y) :
    ∃ x, x.ra = s.pc ∧ fetch s.pc s = fetchLine s.pc x y u := by
  obtain ⟨x, hx, hra, hocm, he, hxi⟩ := fetchCheck_fetching h
  have hfw : s.fwoa = false := by simp [State.fwoa, inForce_settled h.settled, State.current, hf]
  have herr : s.wordError s.pc = false := anyKind_false (by decide) fun k hk => hm _ <| by
    have hal := toNat_wordAlign s.pc
    rw [(within_word_add (a := wordAlign s.pc) (n := 4) (by omega) hk).1, blockOf_wordAlign]
  have hbus : ¬ (x.attr.i || s.fwoa) = true := by simp [hxi, hc, hfw]
  refine ⟨x, hra, ?_⟩
  simp only [fetch, hx, hra, hocm, hi, he, herr, hu, hy, Bool.false_eq_true, if_false, if_neg hbus]
  rw [if_neg (by simp [ho])]

/-- The line then holds the block of memory, and the fetch gives its word. -/
theorem fetch_miss_ram {s : State} (h : Claims.fetching s) (hc : regionBit s.spr.iccr s.pc = true)
    (hf : bit s.spr.ccr0 23 = false) (ho : s.ccr0Open = false) (hold : Claims.noOldCode s) (hi : s.iHit s.pc s.pc = none)
    (hm : ∀ a, blockOf a = blockOf s.pc → s.memKind a = .ram ∧ s.dHit a = none) :
    ∃ y v, v = { s with busFetch := true, draws := v.draws } ∧
      let u := placeILine (classIndex s.pc) y (filledLine s.mem s.pc) v
      u.iHit s.pc s.pc = some y ∧
        fetch s.pc s = .word (s.mem.readWord (wordAlign s.pc))
          (u.setIClass (classIndex s.pc) ((u.iClass (classIndex s.pc)).touch y)) := by
  obtain ⟨y, v, hv, hfill⟩ := iFill_ram (s := { s with busFetch := true }) s.pc hold.1 hm
  have hiv : v.iHit s.pc s.pc = none := by rw [hv]; exact hi
  have hmv : v.mem = s.mem := by rw [hv]
  have hy := iHit_placeILine hiv y (l := filledLine s.mem s.pc) rfl rfl
  obtain ⟨x, hra, hx⟩ := fetch_miss h hc hf ho hi (fun a ha => (hm a ha).1) hfill hy
  have hfetched := hitFetch_filledLine (x := x) (by rw [hra]; exact hiv) (by rw [hv]; exact hold)
    (by rw [hra, hv]; exact (hm _ (blockOf_wordAlign s.pc)).2) y
  have hram : ∀ a, blockOf a = blockOf x.ra →
      (placeILine (classIndex s.pc) y (filledLine s.mem s.pc) v).memKind a = .ram := by
    rw [hra, hv]; exact fun a ha => (hm a ha).1
  simp only [hra, hmv] at hfetched
  refine ⟨y, v, hv, hy, ?_⟩
  rw [hx, fetchLine_ram _ _ hram, hfetched]

/-- The word of a line as the statement writes it. -/
theorem lineWord_eq_extract (d : BitVec 256) (a : Word) :
    lineWord d (lineOffset a / 4) = d.extractLsb' (32 * (7 - a.toNat % 32 / 4)) 32 := by
  rw [lineWord, lineOffset_eq]
  congr 1
  omega

/-- Settles O53: it holds. Each clause is one of the fetches above. -/
theorem fetchesReadMemoryAndTheInstructionCache : Obligations.FetchesReadMemoryAndTheInstructionCache := by
  unfold Obligations.FetchesReadMemoryAndTheInstructionCache
  refine ⟨fun s h ho => fetch_onChip h ho, fun s h => ?_⟩
  intro pc now wordAnswers blockAnswers
  refine ⟨fetch_open h, ?inhibited, ?hit, ?miss⟩
  case inhibited =>
    intro hm hc ho hi hd
    obtain ⟨v, t, hv, ht, hcopy⟩ := fetch_inhibited h ho hi hc hm hd
    refine ⟨v, t, hv, ht, hcopy.imp id (Or.imp mem_wordsAt fun hl => ?_)⟩
    obtain ⟨l, hmem, hb, rfl⟩ := mem_lineCopies hl
    exact ⟨l, hmem, hb, lineWord_eq_extract _ _⟩
  case hit =>
    rintro hm hc ⟨hold, hcode, hlines⟩ hd y hi hlittle hword
    obtain ⟨x, hra, hx⟩ := fetch_hit h hc hi
    have hagree := hitFetch_agrees (x := x) hlittle ((lineWord_eq_extract _ _).trans (hword.trans (by rw [hra]; rfl)))
      (by rw [hra]; exact hd) hold hcode (by simp [State.lineCopies, hlines])
    rw [hx, fetchLine_ram _ _ (by rw [hra]; exact hm), hagree, hra]
    refine ⟨_, rfl, rfl, fun j => ?_⟩
    rw [iClass_setIClass]
    split
    · rename_i e; rw [e]; exact ⟨rfl, rfl⟩
    · exact ⟨rfl, rfl⟩
  case miss =>
    intro hm hc hf ho hold hi hd
    obtain ⟨y, v, hv, hy, hfetch⟩ := fetch_miss_ram h hc hf ho hold hi fun a ha => ⟨hm a ha, hd a ha⟩
    refine ⟨_, y, hfetch, by rw [hv]; rfl, (iHit_touch _ _ _ _ _).trans hy, fun a ha => ?_⟩
    rw [iClass_setIClass_self, IClass.line_touch, line_placeILine, filledLine, ← readLine_congr _ ha, lineByte_readLine]

end Sys2Proof.Machine

/-! ## Translation and protection (21_translation.md)

Which addresses an entry of the UTLB translates and to which address, what a search finds, the permission of R233 in the terms of the
statements, and scalar accesses within one word, whose one part may be a translated one. -/

namespace Sys2Proof.Machine

/-! ### Which addresses an entry translates, and to which address (R224, R226) -/

/-- Two words agree in the bits that a shift to the right leaves. -/
theorem ushiftRight_eq_iff {w : Nat} (x y : BitVec w) (n : Nat) :
    x >>> n = y >>> n ↔ ∀ i, n ≤ i → x.getLsbD i = y.getLsbD i := by
  constructor
  · intro h i hi
    rw [← Nat.add_sub_of_le hi, ← BitVec.getLsbD_ushiftRight, h, BitVec.getLsbD_ushiftRight]
  · intro h
    apply BitVec.eq_of_getLsbD_eq
    intro i _
    rw [BitVec.getLsbD_ushiftRight, BitVec.getLsbD_ushiftRight, h _ (Nat.le_add_right n i)]

theorem hits_iff (e : TlbEntry) (pid : BitVec 8) (ea : Word) :
    e.hits pid ea = true ↔
      e.valid = true ∧ (∀ k, k < 22 - 2 * e.size.toNat → e.tag.getLsbD (21 - k) = bit ea k) ∧
      (e.tid = 0#8 ∨ e.tid = pid) := by
  have hbit (k : Nat) (hk : k < 22) : (ea.extractLsb' 10 22).getLsbD (21 - k) = bit ea k := by
    rw [BitVec.getLsbD_extractLsb', decide_eq_true (Nat.lt_succ_of_le (Nat.sub_le 21 k)), Bool.true_and,
      ← Nat.add_sub_assoc (Nat.le_of_lt_succ hk) 10]
    rfl
  have htag : (∀ i, 2 * e.size.toNat ≤ i → e.tag.getLsbD i = (ea.extractLsb' 10 22).getLsbD i) ↔
      ∀ k, k < 22 - 2 * e.size.toNat → e.tag.getLsbD (21 - k) = bit ea k := by
    refine ⟨fun h k hk => ?_, fun h i hi => ?_⟩
    · rw [h _ (Nat.le_sub_of_add_le (Nat.le_of_lt_succ (Nat.lt_sub_iff_add_lt'.mp hk))),
        hbit k (Nat.lt_of_lt_of_le hk (Nat.sub_le _ _))]
    · rcases Nat.lt_or_ge i 22 with hlt | hge
      · have hk : 21 - i < 22 - 2 * e.size.toNat := by omega
        rw [← Nat.sub_sub_self (Nat.le_of_lt_succ hlt), h _ hk, hbit _ (Nat.lt_of_lt_of_le hk (Nat.sub_le _ _))]
      · rw [BitVec.getLsbD_of_ge _ _ hge, BitVec.getLsbD_of_ge _ _ hge]
  simp only [TlbEntry.hits, Bool.and_eq_true, Bool.or_eq_true, beq_iff_eq, ushiftRight_eq_iff, htag, and_assoc]

/-- The high-order bits of one word and the `n` low-order bits of another. -/
theorem bit_replaceLow (x ea : Word) (n k : Nat) :
    bit ((x >>> n) <<< n ||| (ea &&& BitVec.ofNat 32 (2 ^ n - 1))) k = if 31 - k < n then bit ea k else bit x k := by
  have hk32 : decide (31 - k < 32) = true := decide_eq_true (Nat.lt_succ_of_le (Nat.sub_le 31 k))
  rw [bit_or, bit_and]
  simp only [bit, BitVec.getLsbD_ofNat, Nat.testBit_two_pow_sub_one, BitVec.getLsbD_shiftLeft, BitVec.getLsbD_ushiftRight,
    hk32, Bool.true_and]
  by_cases h : 31 - k < n
  · simp only [h, decide_true, Bool.not_true, Bool.false_and, Bool.and_true, Bool.false_or, if_true]
  · rw [Nat.add_sub_of_le (Nat.le_of_not_lt h)]
    simp only [h, decide_false, Bool.not_false, Bool.true_and, Bool.and_false, Bool.or_false, if_false]

theorem bit_physical (e : TlbEntry) (ea : Word) {k : Nat} (hk : k < 32) :
    bit (e.physical ea) k = if k < 22 - 2 * e.size.toNat then e.rpn.getLsbD (21 - k) else bit ea k := by
  have hsize := e.size.isLt
  have hpage : 31 - k < 10 + 2 * e.size.toNat ↔ ¬ k < 22 - 2 * e.size.toNat := by omega
  refine (bit_replaceLow (e.rpn ++ 0#10) ea (10 + 2 * e.size.toNat) k).trans ?_
  by_cases h : k < 22 - 2 * e.size.toNat
  · rw [if_pos h, if_neg (fun hlow => hpage.mp hlow h), bit]
    refine BitVec.getLsbD_append.trans ?_
    rw [if_neg (fun hlow => hpage.mp (Nat.lt_add_right _ hlow) h), Nat.sub_right_comm]
  · rw [if_neg h, if_pos (hpage.mpr h)]

/-! ### Modes in force -/

theorem dr_settled {s : State} (hs : s.settled) : s.dr = bit s.msr 27 := by
  rw [State.dr, inForce_settled hs]
  rfl

theorem ir_settled {s : State} (hs : s.settled) : s.ir = bit s.msr 26 := by
  rw [State.ir, inForce_settled hs]
  rfl

/-! ### What a search finds (R224, R225) -/

/-- The indices of the entries that translate an address. -/
def State.hitting (s : State) (ea : Word) : List (Fin 64) :=
  (List.finRange 64).filter fun j => (s.tlbEntry (BitVec.ofFin j)).hits (s.spr.pid.extractLsb' 0 8) ea

theorem mem_hitting {s : State} {ea : Word} {j : BitVec 6} : j.toFin ∈ s.hitting ea ↔ Claims.translates s ea j := by
  rw [State.hitting, List.mem_filter, and_iff_right (List.mem_finRange _)]
  rfl

theorem filter_hits (s : State) (ea : Word) :
    s.utlb.toList.filter (fun t => t.hits (s.spr.pid.extractLsb' 0 8) ea) =
      (s.hitting ea).map fun j => s.tlbEntry (BitVec.ofFin j) := by
  have hu : s.utlb.toList = (List.finRange 64).map fun j => s.tlbEntry (BitVec.ofFin j) := by
    refine List.ext_getElem (by rw [List.length_map, List.length_finRange, Vector.length_toList]) fun k _ _ => ?_
    rw [List.getElem_map, List.getElem_finRange]
    rfl
  rw [hu, List.filter_map]
  rfl

/-- Two entries that translate the address: the search finds several. -/
theorem searchTlb_multiple {s : State} {ea : Word} {i j : BitVec 6} (hs : s.settled) (hij : i ≠ j)
    (hi : Claims.translates s ea i) (hj : Claims.translates s ea j) : s.searchTlb [] ea = (.multiple, s) := by
  have hi := mem_hitting.mpr hi
  have hj := mem_hitting.mpr hj
  rw [searchTlb_settled ea hs, searchEntries, filter_hits]
  match hl : s.hitting ea with
  | [] => exact absurd (hl ▸ hi) List.not_mem_nil
  | [a] =>
    rw [hl, List.mem_singleton] at hi hj
    exact absurd (BitVec.eq_of_toFin_eq (hi.trans hj.symm)) hij
  | _ :: _ :: _ => rfl

/-- One entry that translates the address: the search finds it. -/
theorem searchTlb_onlyEntry {s : State} {ea : Word} {i : BitVec 6} (hs : s.settled) (h : Claims.onlyEntry s ea i) :
    s.searchTlb [] ea = (.hit (s.tlbEntry i), s) := by
  have hi : i.toFin ∈ s.hitting ea := mem_hitting.mpr ((h.1 i).mpr rfl)
  have honly (j : Fin 64) (hj : j ∈ s.hitting ea) : j = i.toFin :=
    congrArg BitVec.toFin ((h.1 (BitVec.ofFin j)).mp (mem_hitting.mp hj))
  have hnodup : (s.hitting ea).Nodup := (List.nodup_finRange 64).filter _
  rw [searchTlb_settled ea hs, searchEntries, filter_hits]
  match hl : s.hitting ea with
  | [] => exact absurd (hl ▸ hi) List.not_mem_nil
  | [a] =>
    rw [honly a (hl ▸ List.mem_singleton_self a)]
    rfl
  | a :: b :: l =>
    have hab : a = b := (honly a (hl ▸ List.mem_cons_self)).trans
      (honly b (hl ▸ List.mem_cons_of_mem a List.mem_cons_self)).symm
    rw [hl, hab] at hnodup
    exact absurd List.mem_cons_self (List.nodup_cons.mp hnodup).1

/-- Settles O37: it holds. -/
theorem tlbEntriesHitAndTranslate : Obligations.TlbEntriesHitAndTranslate := by
  unfold Obligations.TlbEntriesHitAndTranslate
  refine ⟨fun k ea i j s hs hij hi hj => ?stops, fun e pid ea => ⟨hits_iff e pid ea, fun k hk => bit_physical e ea hk⟩⟩
  case stops =>
    have hfound := searchTlb_multiple hs hij hi hj
    refine ⟨fun hd ho => ?_, fun hr ho => ⟨?_, ?_⟩⟩
    · simp only [dataCheck, dr_settled hs, hd, ho, hfound, if_true]
    · simp only [fetchCheck, ir_settled hs, hr, ho, hfound, if_true]
    · simp only [aheadCheck, ir_settled hs, hr, ho, hfound, if_true, aheadStops]

/-! ### Zones and permissions (R230, R232, R233) -/

theorem toNat_zone {s : State} (hs : s.settled) (e : TlbEntry) : (s.zone e).toNat = Claims.zone s e := by
  have htwo (b : BitVec 2) : b.toNat = 2 * (b.getLsbD 1).toNat + (b.getLsbD 0).toNat := by
    rw [BitVec.getLsbD, BitVec.getLsbD, Nat.toNat_testBit, Nat.toNat_testBit, Nat.pow_one, Nat.pow_zero, Nat.div_one,
      Nat.mod_eq_of_lt (Nat.div_lt_of_lt_mul b.isLt), Nat.div_add_mod]
  have hz := e.zsel.isLt
  have hplace : 32 - 2 * e.zsel.toNat - 2 + 1 = 31 - 2 * e.zsel.toNat ∧
      32 - 2 * e.zsel.toNat - 2 + 0 = 31 - (2 * e.zsel.toNat + 1) := by omega
  rw [State.zone, inForce_settled hs, htwo, bits, BitVec.getLsbD_extractLsb', BitVec.getLsbD_extractLsb',
    hplace.1, hplace.2]
  rfl

theorem noAccess_iff {s : State} (hs : s.settled) (e : TlbEntry) : s.noAccess e = true ↔ Claims.noAccess s e := by
  rw [Claims.noAccess, ← toNat_zone hs, ← user_settled hs, State.noAccess, Bool.and_eq_true, beq_iff_eq, ← BitVec.toNat_inj]
  rfl

theorem fullAccess_iff {s : State} (hs : s.settled) (e : TlbEntry) : s.fullAccess e = true ↔ Claims.fullAccess s e := by
  simp only [State.fullAccess, Claims.fullAccess, user_settled hs, ← toNat_zone hs]
  cases bit s.msr 17 <;> simp [← BitVec.toNat_inj, or_comm]

theorem usePage_none {ocm : Bool} {e : TlbEntry} {ea : Word} {s : State} (h : e.rpnUnused = false) :
    usePage ocm e ea none s =
      if ocm = true ∧ e.physical ea ≠ ea then .fault .ocmPageTranslated
      else .ok { ra := e.physical ea, attr := { w := e.w, i := e.i || ocm, g := e.g, u0 := e.u0, e := e.endian }, ocm := ocm } s := by
  cases ocm
  · simp [usePage, h, placed, TlbEntry.attr]
  · by_cases hp : e.physical ea = ea <;> simp [usePage, h, hp, placed, TlbEntry.attr]

theorem dataCheck_onlyEntry {s : State} {ea : Word} {i : BitVec 6} (hs : s.settled) (h : Claims.onlyEntry s ea i) (k : AccKind)
    (hd : bit s.msr 27 = true) (ho : s.dtlbOld = []) :
    dataCheck k ea s = usePage (ocmHolds s.env.dataOcm ea) (s.tlbEntry i) ea (s.dataPermission k (s.tlbEntry i) ea) s := by
  simp only [dataCheck, dr_settled hs, hd, ho, searchTlb_onlyEntry hs h, if_true]

theorem fetchCheck_onlyEntry {s : State} {ea : Word} {i : BitVec 6} (hs : s.settled) (h : Claims.onlyEntry s ea i)
    (hr : bit s.msr 26 = true) (ho : s.itlbOld = []) :
    fetchCheck ea s = usePage (ocmHolds s.env.instrOcm ea) (s.tlbEntry i) ea (s.fetchPermission (s.tlbEntry i)) s := by
  simp only [fetchCheck, ir_settled hs, hr, ho, searchTlb_onlyEntry hs h, if_true]

theorem dataPermission_load {s : State} {e : TlbEntry} (ha : s.noAccess e = false) (ea : Word) :
    s.dataPermission .load e ea = none := by
  rw [State.dataPermission, ha]
  rfl

theorem dataPermission_store_writable {s : State} {e : TlbEntry} (ha : s.noAccess e = false)
    (hw : e.wr = true ∨ s.fullAccess e = true) (ea : Word) :
    s.dataPermission .store e ea = if e.u0 = true ∧ s.u0xe = true then some (.dataStorage true false true ea) else none := by
  have hro : (!e.wr && !s.fullAccess e) = false := by rcases hw with hw | hw <;> simp [hw]
  simp only [State.dataPermission, ha, hro, Bool.false_eq_true, if_false, Bool.and_eq_true]

/-- Settles O38: it holds. Each clause is the permission of its access, met by the one entry that translates the address. -/
theorem permissionsFollowR233 : Obligations.PermissionsFollowR233 := by
  unfold Obligations.PermissionsFollowR233
  intro ea i s hs h e permitted
  have hpage (ocm : Bool) : usePage ocm e ea none s = permitted ocm s := usePage_none h.2
  have hu0 : s.u0xe = bit s.spr.ccr0 14 := congrArg (bit · 14) (inForce_settled hs .ccr0)
  simp only [← noAccess_iff hs, ← fullAccess_iff hs, Bool.not_eq_true]
  refine ⟨?data, ?fetch⟩
  case data =>
    intro hd ho
    simp only [dataCheck_onlyEntry hs h _ hd ho]
    refine ⟨fun hno => ⟨?_, ?_⟩, fun ha => ⟨?_, fun hw => ?_, fun hw => ?_⟩⟩
    · rw [State.dataPermission, if_pos hno]
      rfl
    · rw [State.dataPermission, if_pos hno]
      rfl
    · rw [dataPermission_load ha, hpage]
    · rw [State.dataPermission, ha, hw.1, hw.2]
      rfl
    · rw [dataPermission_store_writable ha hw, hu0]
      split
      · rfl
      · exact hpage _
  case fetch =>
    intro hr ho
    simp only [fetchCheck_onlyEntry hs h hr ho]
    refine ⟨fun hno => ?_, fun ha => ⟨fun hx => ?_, fun hx hg => ?_⟩⟩
    · rw [State.fetchPermission, if_pos hno]
      rfl
    · have hforbidden : s.fetchPermission e = some (.instrStorage false) := by
        rcases hx with ⟨hex, hfull⟩ | hg
        · simp [State.fetchPermission, ha, hex, hfull]
        · simp [State.fetchPermission, ha, hg]
      rw [hforbidden]
      rfl
    · have hfree : s.fetchPermission e = none := by
        rcases hx with hex | hfull
        · simp [State.fetchPermission, ha, hex, hg]
        · simp [State.fetchPermission, ha, hfull, hg]
      rw [hfree, hpage]

/-! ### Scalars within one word, whatever translates them (R142 to R144) -/

/-- The state once an access has begun. -/
def State.accessBegun (s : State) : State := { s with synced := false }

/-- The checks of an access of one part that its translation passes, with the data compares off. -/
theorem beginAccess_part {s : State} {k : AccKind} {p : Part} {x : Xlat} (hoff : s.debugNow.dbcr1 = 0#32)
    (hx : dataCheck k p.ea s.accessBegun = .ok x s.accessBegun) (partly : List Xlat → State → Res Unit) :
    beginAccess k [p] none partly s = .ok [x] s.accessBegun := by
  have hplan : planParts k [p] s.accessBegun = .ok [x] s.accessBegun := by simp only [planParts, hx, Plan.cons]
  have hdac : dacCheck (k == .store) [p.dac] s.accessBegun = .ok () s.accessBegun :=
    dacCheck_off (s := s.accessBegun) hoff _ _
  rw [State.accessBegun] at hplan
  simp only [beginAccess, hplan, List.map_cons, List.map_nil]
  exact (congrArg (Res.bind · _) hdac)

section Part
variable {s t : State} {ea : Word} {n : Nat} {x : Xlat} (hn : 0 < n) (hw : ea.toNat % 4 + n ≤ 4)
  (hs : s.debugNow.dbcr1 = 0#32) (ht : t.debugNow.dbcr1 = 0#32) (hq : t.dataMC = false)
include hn hw hs ht hq

/-- A scalar load within one word is the load of its one part. -/
theorem loadScalar_part {bs : List Byte} (hx : dataCheck .load ea s.accessBegun = .ok x s.accessBegun)
    (hb : bs.length = n) (hl : loadPart x n s.accessBegun = .ok (goodBytes bs) t) (rD : Reg) (f : Word → Word) :
    loadScalar rD ea n none f s = .ok (f (ofBytes (if x.attr.e then bs.reverse else bs))) t := by
  have hp := parts_scalar_within hn hw
  have hn0 : n ≠ 0 := hn.ne'
  have hwhole : (scalar ea n).loadWhole [x] s.accessBegun =
      .ok { values := [if x.attr.e then bs.reverse else bs], failed := [] } t := by
    simp [Operand.loadWhole, accessed_off (s := s.accessBegun) hs, hp, loadParts, loadWithin,
      show (scalar ea n).single = true from rfl, hl, Res.bind, dvcAfter_off ht, Operand.loaded, Operand.values,
      show (scalar ea n).unit = n from rfl, hn0, orders, valuesOf, goodBytes, hb, failedWords, List.take_of_length_le]
  have hload : loadOperand (scalar ea n) none (putScalar rD) s =
      .ok { values := [if x.attr.e then bs.reverse else bs], failed := [] } t := by
    simp only [loadOperand, hp, beginAccess_part (p := ⟨ea, n, ea⟩) hs hx, Res.bind]
    exact interruptible_quiet hwhole hq
  simp [loadScalar, hload, Res.bind]

/-- A scalar store within one word, likewise. -/
theorem storeScalar_part (hx : dataCheck .store ea s.accessBegun = .ok x s.accessBegun) (v : Word)
    (hl : storePart x (if x.attr.e then (bytesOf n v).reverse else bytesOf n v) s.accessBegun = .ok () t) :
    storeScalar ea n none v s = .ok () t := by
  have hp := parts_scalar_within hn hw
  have hn0 : n ≠ 0 := hn.ne'
  have hlen : (if x.attr.e then (bytesOf n v).reverse else bytesOf n v).length = n := by split <;> simp
  have hwhole : (scalar ea n).storeWhole [bytesOf n v] [x] s.accessBegun = .ok () t := by
    simp [Operand.storeWhole, accessed_off (s := s.accessBegun) hs, hp, storeParts, Operand.bytes,
      show (scalar ea n).unit = n from rfl, hn0, orders, memoryOrder, List.take_of_length_le hlen.le, hl, Res.bind,
      dvcAfter_off ht]
  simp only [storeScalar, storeOperand, hp, beginAccess_part (p := ⟨ea, n, ea⟩) hs hx, Res.bind]
  exact interruptible_quiet hwhole hq

end Part

/-- A store of a part in non-cacheable memory that the data cache does not hold. -/
theorem storePart_ram {s : State} {x : Xlat} {bs : List Byte} (ho : x.ocm = false) (hi : x.attr.i = true)
    (hd : s.dHit x.ra = none) (hf : s.dfb = none) (hk : ∀ k, k < bs.length → s.memKind (x.ra + BitVec.ofNat 32 k) = .ram) :
    storePart x bs s = .ok () (writeSys x.ra (bs.map some) s) := by
  have hdrop : dropFillBuffer x.ra s = s := by simp [dropFillBuffer, hf]
  simp [storePart, hdrop, ho, hi, hd, busWrite_ram hk]

/-! ### Translated bytes -/

/-- Where a page leads, for an address outside on-chip memory. -/
def pageXlat (e : TlbEntry) (ea : Word) : Xlat := { ra := e.physical ea, attr := e.attr, ocm := false }

section Byte
variable {s : State} {ea : Word} {i : BitVec 6} (hv : Claims.virtualData s) (h : Claims.onlyEntry s ea i)
  (ho : ocmHolds s.env.dataOcm ea = false)
include hv h ho

/-- An access that the page permits, once the processor has begun it. -/
theorem dataCheck_page {k : AccKind} (hp : s.dataPermission k (s.tlbEntry i) ea = none) :
    dataCheck k ea s.accessBegun = .ok (pageXlat (s.tlbEntry i) ea) s.accessBegun := by
  rw [dataCheck_onlyEntry (s := s.accessBegun) hv.settled h k hv.virtual hv.shadow]
  refine (congrArg (usePage _ _ ea · _) hp).trans ?_
  change usePage (ocmHolds s.env.dataOcm ea) (s.tlbEntry i) ea none s.accessBegun = _
  rw [ho, usePage, h.2]
  rfl

variable (ha : s.noAccess (s.tlbEntry i) = false) (hi : (s.tlbEntry i).i = true)
  (hd : s.dHit ((s.tlbEntry i).physical ea) = none) (hf : s.dfb = none) (hq : s.dataMC = false)
  (hk : ∀ k, k < 1 → s.memKind ((s.tlbEntry i).physical ea + BitVec.ofNat 32 k) = .ram)
include ha hi hd hf hq hk

/-- A byte loaded from the page: the byte at its physical address. -/
theorem loadByte_page (hb : s.blocksAnswer ((s.tlbEntry i).physical ea) 1) (rD : Reg) :
    ∃ t, loadScalar rD ea 1 none id s = .ok ((s.mem.read ((s.tlbEntry i).physical ea)).setWidth 32) t ∧
      t = { s with dfb := t.dfb, synced := false } := by
  have hoff : s.debugNow.dbcr1 = 0#32 := debugNow_settled hv.settled ▸ hv.dbcr1
  have hline (hl : s.lwl = true) (a : Word) (hblock : blockOf a = blockOf ((s.tlbEntry i).physical ea)) : s.memKind a = .ram := by
    rw [State.lwl, inForce_settled hv.settled] at hl
    exact hb hl 0 Nat.one_pos a (by rwa [BitVec.add_zero])
  have hempty : s.accessBegun.bufferTrue := fun f hfull => nomatch hf.symm.trans hfull
  obtain ⟨t, hload, hframe, -⟩ := loadPart_plain (s := s.accessBegun) (x := pageXlat (s.tlbEntry i) ea) (n := 1)
    rfl hi hd hk hline hempty (Nat.mod_lt _ (Nat.succ_pos 31))
  have ht : t = { s with dfb := t.dfb, synced := false } := hframe
  have hscalar := loadScalar_part (n := 1) (bs := [s.mem.read ((s.tlbEntry i).physical ea)]) Nat.one_pos
    (Nat.mod_lt _ (Nat.succ_pos 3)) hoff (by rw [ht]; exact hoff) (by rw [ht]; exact hq)
    (dataCheck_page hv h ho (dataPermission_load ha ea)) rfl hload rD id
  refine ⟨t, hscalar.trans ?_, ht⟩
  rw [List.reverse_singleton, ite_self]
  simp [ofBytes]

/-- A byte stored in the page, where it may be written: memory at its physical address. -/
theorem storeByte_page (hw : (s.tlbEntry i).wr = true ∨ s.fullAccess (s.tlbEntry i) = true) (hu : (s.tlbEntry i).u0 = false)
    (v : Word) :
    storeScalar ea 1 none v s =
      .ok () (writeSys ((s.tlbEntry i).physical ea) [some (v.setWidth 8)] s.accessBegun) := by
  have hoff : s.debugNow.dbcr1 = 0#32 := debugNow_settled hv.settled ▸ hv.dbcr1
  have hbyte : bytesOf 1 v = [v.setWidth 8] := by simp [bytesOf, BitVec.setWidth_eq_extractLsb']
  have hpermitted : s.dataPermission .store (s.tlbEntry i) ea = none := by
    rw [dataPermission_store_writable ha hw, hu]
    rfl
  have hstore := storePart_ram (s := s.accessBegun) (x := pageXlat (s.tlbEntry i) ea) (bs := [v.setWidth 8])
    rfl hi hd hf hk
  refine storeScalar_part (n := 1) (t := writeSys _ _ s.accessBegun) Nat.one_pos
    (Nat.mod_lt _ (Nat.succ_pos 3)) hoff hoff hq (dataCheck_page hv h ho hpermitted) v ?_
  rw [hbyte, List.reverse_singleton, ite_self]
  exact hstore

end Byte

/-- Settles O41: it holds. Each access is one part, which the page places at the physical address. -/
theorem byteAccessesAreTranslated : Obligations.ByteAccessesAreTranslated := by
  unfold Obligations.ByteAccessesAreTranslated
  intro rD rA rB i s hv hwf hf ea e ra h ha hi hd hk hq ho
  rw [← noAccess_iff hv.settled, Bool.not_eq_true] at ha
  have hram (k : Nat) (hk0 : k < 1) : s.memKind (ra + BitVec.ofNat 32 k) = .ram := by
    rwa [Nat.lt_one_iff.mp hk0, BitVec.add_zero]
  refine ⟨fun hb => ?load, fun hw hu => ?store⟩
  case load =>
    obtain ⟨t, hload, ht⟩ := loadByte_page hv h ho ha hi hd hf hq hram hb rD
    refine ⟨(t.setReg rD ((s.mem.read ra).setWidth 32)).advance, ?_, ⟨?_, ?_⟩, reg_setReg_self _ _ _, fun q hne => ?_⟩
    · change (loadScalar rD ea 1 none id s).andThen _ = _
      rw [hload]
      rfl
    · rw [ht]
      rfl
    · rw [ht]
      exact fun a => ⟨rfl, rfl, rfl⟩
    · refine (reg_setReg_ne _ _ hne).trans ?_
      rw [ht]
      rfl
  case store =>
    rw [← fullAccess_iff hv.settled] at hw
    refine ⟨(writeSys ra [some ((s.reg rD).setWidth 8)] s.accessBegun).advance, ?_, rfl, fun _ => rfl, fun a => ?_⟩
    · change (storeScalar ea 1 none (s.reg rD) s).andThen _ = _
      rw [storeByte_page hv h ho ha hi hd hf hq hram hw hu]
      rfl
    · exact Memory.read_write hwf ra a _

end Sys2Proof.Machine

/-! ## Branches, the condition register, traps and returns (40_branch_cr_system.md)

What a branch does where its branch-taken event, if there is one, lets it go on; the CR-logical instructions; the interrupts of
`sc`, `tw` and `twi`; and what the returns restore. -/

namespace Sys2Proof.Machine

/-! ### Conditions and targets of branches (R381, R384 to R387) -/

theorem ctrAfter_eq (bo : BitVec 5) (s : State) : s.ctrAfter bo = Claims.ctrOf bo s := by
  have hdec : s.ctr - 1#32 = BitVec.ofInt 32 (s.ctr.toNat - 1) := by
    rw [Int.sub_eq_add_neg, BitVec.ofInt_add, BitVec.ofInt_natCast, BitVec.ofNat_toNat, BitVec.setWidth_eq, BitVec.sub_eq_add_neg]
    rfl
  rw [State.ctrAfter, hdec]
  rfl

theorem branchTakes_eq (bo bi : BitVec 5) (s : State) : s.branchTakes bo bi = Claims.taken bo bi s := by
  have hzero : (Claims.ctrOf bo s != 0#32) = decide (Claims.ctrOf bo s ≠ 0#32) := by rw [bne, beq_eq_decide, decide_not]
  rw [State.branchTakes, ctrAfter_eq, hzero, Claims.taken, Bool.bne_eq_xor]
  rfl

/-- An immediate displacement is a number of words, absolute or from the branch on. -/
theorem branchTarget_words {n : Nat} (d : BitVec n) (hn : n + 2 ≤ 32) (aa : Bool) (cia : Word) :
    branchTarget aa ((d ++ 0#2).signExtend 32) cia = BitVec.ofInt 32 (4 * d.toInt + if aa then 0 else cia.toNat) := by
  have hdisp : BitVec.ofInt 32 (4 * d.toInt) = (d ++ 0#2).signExtend 32 := by
    have h : ((d ++ 0#2).signExtend 32).toInt = 4 * d.toInt :=
      (BitVec.toInt_signExtend_of_le hn).trans BitVec.toInt_append_zero
    rw [← h, BitVec.ofInt_toInt]
  cases aa
  · change cia + _ = BitVec.ofInt 32 (4 * d.toInt + cia.toNat)
    rw [BitVec.ofInt_add, hdisp, BitVec.ofInt_natCast, BitVec.ofNat_toNat, BitVec.setWidth_eq, BitVec.add_comm]
  · change _ = BitVec.ofInt 32 (4 * d.toInt + 0)
    rw [Int.add_zero, hdisp]
    rfl

theorem wordAlign_eq_ofNat (w : Word) : wordAlign w = BitVec.ofNat 32 (w.toNat / 4 * 4) := by
  rw [← toNat_wordAlign, BitVec.ofNat_toNat, BitVec.setWidth_eq]

/-! ### The branch-taken event (61_timers_debug.md R877) -/

theorem branchTaken_disabled {s : State} (h : bit (s.inForce .dbcr0) 5 = false) : branchTaken s = .ok () s := by
  have hoff : bit s.debugNow.dbcr0 5 = false := h
  simp [branchTaken, hoff]

/-- In internal mode with debug interrupts disabled the event only freezes the timers (R871, R878). -/
theorem branchTaken_quiet {s : State} (hs : s.settled) (hon : bit s.dbg.dbcr0 5 = true) (hedm : bit s.dbg.dbcr0 0 = false)
    (hidm : bit s.dbg.dbcr0 1 = true) (hde : bit s.msr 22 = false) :
    branchTaken s = .ok () { s with tmr := { s.tmr with frozen := s.tmr.frozen || bit s.dbg.dbcr0 31 } } := by
  have hquiet : s.quietDebug = true := by
    simp [State.quietDebug, edm_settled hs, idm_settled hs, State.de, hedm, hidm, hde]
  simp [branchTaken, freezeTimers, debugNow_settled hs, hon, hquiet]

/-- With both modes off and MSR[DWE] = 0 a debug event is only recorded (R870). -/
theorem debugEventWith_off {s : State} (de ide : Bool) (ev ret : Word) (hedm : s.edm = false) (hidm : s.idm = false)
    (hdwe : s.dwe = false) : debugEventWith de ide ev ret s = .goOn (recordDebug (ide && !de) ev s) := by
  simp [debugEventWith, hedm, hidm, hdwe]

/-- Where nothing stops the processor the branch-taken event sets its DBSR bits and freezes the timers (R877, R878). -/
theorem branchTaken_recorded {s : State} (hs : s.settled) (hon : bit s.dbg.dbcr0 5 = true) (hedm : bit s.dbg.dbcr0 0 = false)
    (hidm : bit s.dbg.dbcr0 1 = false) (hdwe : bit s.msr 21 = false) :
    branchTaken s = .ok () { s with
      tmr := { s.tmr with frozen := s.tmr.frozen || bit s.dbg.dbcr0 31 }
      dbg := { s.dbg with dbsr := s.dbg.dbsr ||| oneBit 1 true ||| oneBit 11 (!bit s.msr 22) } } := by
  rw [← edm_settled hs] at hedm
  rw [← idm_settled hs] at hidm
  have hquiet : s.quietDebug = false := by simp [State.quietDebug, hidm]
  simp [branchTaken, debugNow_settled hs, hon, hquiet, debugEventWith_off _ _ _ _ hedm hidm hdwe, Debugged.toRes, recordDebug, hidm,
    State.de]

/-- A branch-taken event after which execution goes on changes only debug registers and timers. -/
theorem branchTaken_ok {s u : State} (h : branchTaken s = .ok () u) : u = { s with dbg := u.dbg, tmr := u.tmr } := by
  unfold branchTaken at h
  split at h
  · split at h
    · cases h; rfl
    · cases he : debugEventWith s.de (!s.idm) (oneBit 1 true) s.pc s with
      | goOn t =>
        rw [he] at h
        cases h
        rw [(debugEventWith_goOn he).1]
        rfl
      | halted t => rw [he] at h; cases h
  · cases h; rfl

/-! ### Branches that go on -/

/-- A conditional branch whose target does not look at debug registers and timers. -/
theorem branches_of_condBranch {i : Instr} {bo bi : BitVec 5} {lk : Bool} {target : State → Word} {u s : State}
    (hi : exec i s = condBranch bo bi lk target s) (h : branchTaken s = .ok () u)
    (ht : ∀ d m, target { s with dbg := d, tmr := m } = target s) :
    Claims.Branches i (Claims.taken bo bi s) (target s) (Claims.ctrOf bo s) lk u s := by
  have hu := branchTaken_ok h
  unfold Claims.Branches
  rw [hi, condBranch, branchTakes_eq, h, ← ctrAfter_eq]
  cases Claims.taken bo bi s
  · exact ⟨_, rfl, fun _ => ⟨rfl, rfl, rfl⟩, rfl⟩
  · rw [hu]
    refine ⟨_, rfl, fun _ => ⟨rfl, rfl, rfl⟩, ?_⟩
    rw [ht]
    rfl

theorem branches_b {li : BitVec 24} {aa lk : Bool} {u s : State} (h : branchTaken s = .ok () u) :
    Claims.Branches (.b li aa lk) true (branchTarget aa (liDisp li) s.pc) s.ctr lk u s := by
  have hu := branchTaken_ok h
  unfold Claims.Branches
  change ∃ t, execB li aa lk s = _ ∧ _
  rw [execB, h, hu]
  exact ⟨_, rfl, fun _ => ⟨rfl, rfl, rfl⟩, rfl⟩

/-- Settles O12: it holds. -/
theorem branchesGoToTheirTargets : Obligations.BranchesGoToTheirTargets := by
  unfold Obligations.BranchesGoToTheirTargets
  intro bo bi li bd aa lk u s edm idm quiet hevent
  have h : branchTaken s = .ok () u := by
    obtain ⟨hoff, rfl⟩ | ⟨hs, hon, hedm, hidm, hde, rfl⟩ | ⟨hs, hon, hedm, hidm, hdwe, rfl⟩ := hevent
    · exact branchTaken_disabled hoff
    · exact branchTaken_quiet hs hon hedm hidm hde
    · exact branchTaken_recorded hs hon hedm hidm hdwe
  rw [← branchTarget_words li (by decide), ← branchTarget_words bd (by decide), ← wordAlign_eq_ofNat, ← wordAlign_eq_ofNat]
  refine ⟨branches_b h, branches_of_condBranch (target := fun t => branchTarget aa (bdDisp bd) t.pc) rfl h fun _ _ => rfl,
    branches_of_condBranch (target := fun t => wordAlign t.lr) rfl h fun _ _ => rfl, ?_⟩
  have hctr := branches_of_condBranch (i := .bcctr bo bi lk) (target := fun t => wordAlign (t.ctrAfter bo)) rfl h fun _ _ => rfl
  rwa [ctrAfter_eq] at hctr

/-! ### Condition-register instructions (R388 to R396) -/

theorem writesCrBit_of_setCrBit {i : Instr} {d : BitVec 5} {v : Bool} {s : State} (h : exec i s = done (s.setCrBit d v)) :
    Claims.WritesCrBit i d v s :=
  ⟨_, h, ⟨rfl, fun _ => ⟨rfl, rfl, rfl⟩⟩, fun k hk => bit_setBit s.cr d.toNat v k d.isLt hk⟩

/-- The four bits of a CR field. -/
theorem crFieldOf_eq_crBits (cr : Word) (n : BitVec 3) :
    crFieldOf cr n =
      crBits (bit cr (4 * n.toNat)) (bit cr (4 * n.toNat + 1)) (bit cr (4 * n.toNat + 2)) (bit cr (4 * n.toNat + 3)) := by
  have hbit : ∀ j, j < 4 → cr.getLsbD (32 - 4 * n.toNat - 4 + j) = bit cr (4 * n.toNat + (3 - j)) := by
    have := n.isLt
    exact fun j hj => congrArg cr.getLsbD (by omega)
  apply BitVec.eq_of_getLsbD_eq
  intro j hj
  rw [getLsbD_crBits, crFieldOf, bits, BitVec.getLsbD_extractLsb', decide_eq_true hj, Bool.true_and, hbit j hj]
  obtain rfl | rfl | rfl | rfl : j = 0 ∨ j = 1 ∨ j = 2 ∨ j = 3 := by omega
  all_goals rfl

/-- Settles O13: it holds. -/
theorem conditionRegisterLogic : Obligations.ConditionRegisterLogic := by
  unfold Obligations.ConditionRegisterLogic
  intro d a b crfD crfS s x y
  have hne : (x != y) = (x ^^ y) := congrFun (congrFun Bool.bne_eq_xor x) y
  have heq : (x == y) = !(x ^^ y) := by rw [← hne, bne, Bool.not_not]
  rw [hne, heq]
  refine ⟨writesCrBit_of_setCrBit rfl, writesCrBit_of_setCrBit rfl, writesCrBit_of_setCrBit rfl, writesCrBit_of_setCrBit rfl,
    writesCrBit_of_setCrBit rfl, writesCrBit_of_setCrBit rfl, writesCrBit_of_setCrBit rfl, writesCrBit_of_setCrBit rfl,
    _, rfl, ⟨rfl, fun _ => ⟨rfl, rfl, rfl⟩⟩, ?_⟩
  rw [crFieldOf_eq_crBits]
  exact writesField_setCrField s crfD _ _ _ _

/-! ### Interrupts of `sc`, `tw` and `twi` (R397 to R399) -/

/-- The whole entry of a noncritical interrupt (R760, R761). -/
theorem enters_interruptEntry {e : Exc} (hcrit : e.critical = false) (ret : Word) (s : State) :
    Claims.Enters e.offset (wordAlign ret) (e.esr s.spr.esr) (e.dear s.spr.dear) s (interruptEntry e ret s) := by
  have hspr : s.spr.enter e ret s.msr =
      { s.spr with srr0 := wordAlign ret, srr1 := s.msr, esr := e.esr s.spr.esr, dear := e.dear s.spr.dear } := by
    simp [SpecialRegs.enter, hcrit]
  have hmask : e.msrMask = 0x00021200#32 := by
    have hcheck : ¬ (e = .machineCheckInstr ∨ e = .machineCheckData) := by rintro (rfl | rfl) <;> cases hcrit
    simp [Exc.msrMask, hcheck, hcrit]
  refine ⟨fun _ => ⟨rfl, rfl, rfl⟩, ?_⟩
  rw [interruptEntry, hspr, hmask]
  rfl

/-- An interrupt entry synchronizes the context, so that DBCR0 is in force as it reads. -/
theorem interruptEntry_debugNow_dbcr0 (e : Exc) (ret : Word) (s : State) :
    (interruptEntry e ret s).debugNow.dbcr0 = s.dbg.dbcr0 := rfl

/-- With the exception-taken event off an interrupt is its entry. -/
theorem takeInterrupt_noDebug {s : State} (h : s.noDebug) (e : Exc) (ret : Word) :
    takeInterrupt e ret s = interruptEntry e ret s := by
  simp [takeInterrupt, interruptEntry_debugNow_dbcr0, h.dbcr0]

theorem exec_sc_noDebug {s : State} (h : s.noDebug) : exec .sc s = .next (interruptEntry .systemCall (s.pc + 4#32) s) := by
  change execSc s = _
  simp [execSc, interruptEntry_debugNow_dbcr0, h.dbcr0, h.now0, oneBit]

/-- Settles O14: it holds. -/
theorem systemCallEntersItsHandler : Obligations.SystemCallEntersItsHandler := by
  unfold Obligations.SystemCallEntersItsHandler
  intro s h
  have hret : wordAlign (s.pc + 4#32) = BitVec.ofNat 32 ((s.pc.toNat + 4) / 4 * 4) := by
    apply BitVec.eq_of_toNat_eq
    rw [toNat_wordAlign, BitVec.toNat_add, BitVec.toNat_ofNat, BitVec.toNat_ofNat]
    omega
  refine ⟨_, exec_sc_noDebug h, ?_⟩
  rw [← hret]
  exact enters_interruptEntry rfl _ s

theorem trapCondition_iff (trapOn : BitVec 5) (a b : Word) : trapCondition trapOn a b = true ↔ Claims.traps trapOn a b := by
  simp [trapCondition, Claims.traps, Claims.boBit, BitVec.slt_iff_toInt_lt, BitVec.ult_iff_toNat_lt, or_assoc]

theorem trapTaken_noDebug {s : State} (h : s.noDebug) : trapTaken s = .next (interruptEntry .programTrap s.pc s) := by
  simp [trapTaken, h.now0, trapTo, takeInterrupt_noDebug h]

/-- Both outcomes of a trap instruction that compares `a` with `b`. -/
theorem trap_outcomes {i : Instr} {trapOn : BitVec 5} {a b : Word} {s : State} (h : s.noDebug)
    (hi : exec i s = if trapCondition trapOn a b then trapTaken s else done s) :
    (¬ Claims.traps trapOn a b → exec i s = .next { s with pc := s.pc + 4#32 }) ∧
      (Claims.traps trapOn a b → ∃ t, exec i s = .next t ∧
        Claims.Enters 0x0700#32 (s.pc &&& 0xFFFFFFFC#32) (Claims.esrOnly s 6) s.spr.dear s t) := by
  rw [hi, ← trapCondition_iff]
  refine ⟨fun hc => ?_, fun hc => ?_⟩
  · rw [if_neg hc]
    rfl
  · rw [if_pos hc, trapTaken_noDebug h]
    exact ⟨_, rfl, enters_interruptEntry rfl s.pc s⟩

/-- Settles O15: it holds. -/
theorem trapInstructionsTrapOnTheirCondition : Obligations.TrapInstructionsTrapOnTheirCondition := by
  unfold Obligations.TrapInstructionsTrapOnTheirCondition
  intro trapOn rA rB simm s h
  obtain ⟨htw, htwTraps⟩ := trap_outcomes (i := .tw trapOn rA rB) (b := s.reg rB) h rfl
  obtain ⟨htwi, htwiTraps⟩ := trap_outcomes (i := .twi trapOn rA simm) (b := simm.signExtend 32) h rfl
  exact ⟨htw, htwTraps, htwi, htwiTraps⟩

/-! ### Returns (R400, R401, R763) -/

/-- The mask of MSR[IR, DR] leaves bits 26 and 27. -/
theorem and_translationMask (w : Word) : w &&& 0x00000030#32 = oneBit 26 (bit w 26) ||| oneBit 27 (bit w 27) := by
  refine word_ext fun k hk => ?_
  have hmask : bit 0x00000030#32 k = (decide (k = 26) || decide (k = 27)) := by revert hk; revert k; decide
  rw [bit_and, hmask, bit_or, bit_oneBit _ _ k (by decide) hk, bit_oneBit _ _ k (by decide) hk]
  by_cases hir : k = 26
  · simp [hir]
  · by_cases hdr : k = 27 <;> simp [hir, hdr]

theorem and_translationMask_ne_zero_iff (w : Word) : w &&& 0x00000030#32 ≠ 0#32 ↔ bit w 26 = true ∨ bit w 27 = true := by
  rw [and_translationMask]
  cases bit w 26 <;> cases bit w 27 <;> decide

theorem tlbInitialized_eq_false_iff (s : State) :
    s.tlbInitialized = false ↔ ∃ i : BitVec 6, s.tlbReady.getLsbD i.toNat = false := by
  rw [State.tlbInitialized, beq_eq_false_iff_ne]
  constructor
  · contrapose!
    intro h
    apply BitVec.eq_of_getLsbD_eq
    intro i hi
    have hbit := h (BitVec.ofNat 6 i)
    rw [BitVec.toNat_ofNat, Nat.mod_eq_of_lt hi, Bool.ne_false_iff] at hbit
    rw [hbit, BitVec.getLsbD_allOnes, decide_eq_true hi]
  · rintro ⟨i, hi⟩ hall
    rw [hall, BitVec.getLsbD_allOnes] at hi
    exact absurd i.isLt (of_decide_eq_false hi)

theorem translatesTooEarly_iff (s : State) (msr : Word) :
    s.translatesTooEarly msr = true ↔ Claims.translatesTooEarly msr s := by
  rw [State.translatesTooEarly, Claims.translatesTooEarly, Bool.and_eq_true, bne_iff_ne, and_translationMask_ne_zero_iff,
    Bool.not_eq_true', tlbInitialized_eq_false_iff]
  simp [bit_not]

/-- Settles O16: it holds. -/
theorem returnsRestoreTheMachineState : Obligations.ReturnsRestoreTheMachineState := by
  unfold Obligations.ReturnsRestoreTheMachineState
  intro s hs hp returned waits i target msr hi
  have hexec : exec i s = returnChecked target msr s := by
    obtain ⟨rfl, rfl, rfl⟩ | ⟨rfl, rfl, rfl⟩ := hi
    · exact privileged_eq hs hp _
    · exact privileged_eq hs hp _
  have hwaits : waits msr ↔
      (s.dwLatched && bit msr 21 && !bit s.dbg.dbcr0 1 && !bit s.dbg.dbcr0 0) = true := by
    simp only [waits, Bool.and_eq_true, Bool.not_eq_true', and_assoc, and_comm (a := bit s.dbg.dbcr0 0 = false)]
  rw [hexec, returnChecked, returnTo_eq, ← translatesTooEarly_iff, hwaits]
  refine ⟨fun hearly => if_pos hearly, fun hearly hw => ?_, fun hearly hw => ?_⟩
  · rw [if_neg hearly]
    exact congrArg _ (if_neg hw)
  · rw [if_neg hearly]
    exact congrArg _ (if_pos hw)

end Sys2Proof.Machine

/-! ## Logical instructions, rotates and shifts (43_logical_compare_rotate_shift.md)

Bits of immediates, of rotated words and of masks; a shift is a rotate under a mask, and what the mask leaves out is 0, the old bit
or the sign. -/

namespace Sys2Proof.Machine

/-! ### Logical instructions (R551 to R566) -/

theorem bit_uimm32 (v : BitVec 16) (k : Nat) : bit (uimm32 v) k = (decide (16 ≤ k) && v.getLsbD (31 - k)) := by
  rw [bit, uimm32, BitVec.getLsbD_setWidth, decide_eq_true (show 31 - k < 32 by omega), Bool.true_and]
  by_cases h : 16 ≤ k
  · simp [h]
  · simpa [h] using BitVec.getLsbD_of_ge v (31 - k) (by omega)

theorem bit_imm32Shifted (v : BitVec 16) (k : Nat) :
    bit (imm32Shifted v) k = (decide (k < 16) && v.getLsbD (15 - k)) := by
  rw [bit, imm32Shifted, BitVec.getLsbD_append]
  by_cases h : k < 16
  · simp [h, show ¬ 31 - k < 16 by omega, show 31 - k - 16 = 15 - k by omega]
  · simp [h, show 31 - k < 16 by omega]

theorem bit_not_xor (a b : Word) (k : Nat) : bit (~~~(a ^^^ b)) k = (bit a k == bit b k) := by
  rw [bit_not, bit_xor, ← Bool.bne_eq_xor, bne, Bool.not_not]

theorem bit_xor_bne (a b : Word) (k : Nat) : bit (a ^^^ b) k = (bit a k != bit b k) := by
  rw [bit_xor, Bool.bne_eq_xor]

/-- Settles O6: it holds. -/
theorem logicalInstructionsActBitByBit : Obligations.LogicalInstructionsActBitByBit := by
  unfold Obligations.LogicalInstructionsActBitByBit
  intro rA rS rB uimm rc s x y low high
  have hlow (k : Nat) : bit (uimm32 uimm) k = low k := bit_uimm32 uimm k
  have hhigh (k : Nat) : bit (imm32Shifted uimm) k = high k := bit_imm32Shifted uimm k
  refine ⟨writesBits_of_writeLogic rfl fun k _ => bit_and x y k,
    writesBits_of_writeLogic rfl fun k _ => ?andc,
    writesBits_of_writeLogic rfl fun k _ => bit_not_xor x y k,
    writesBits_of_writeLogic rfl fun k _ => ?nand,
    writesBits_of_writeLogic rfl fun k _ => ?nor,
    writesBits_of_writeLogic rfl fun k _ => bit_or x y k,
    writesBits_of_writeLogic rfl fun k _ => ?orc,
    writesBits_of_writeLogic rfl fun k _ => bit_xor_bne x y k,
    writesBits_of_writeLogic rfl fun k _ => ?andiDot,
    writesBits_of_writeLogic rfl fun k _ => ?andisDot,
    writesBits_of_writeLogic rfl fun k _ => ?ori,
    writesBits_of_writeLogic rfl fun k _ => ?oris,
    writesBits_of_writeLogic rfl fun k _ => ?xori,
    writesBits_of_writeLogic rfl fun k _ => ?xoris⟩
  case andc => rw [bit_and, bit_not]
  case nand => rw [bit_not, bit_and]
  case nor => rw [bit_not, bit_or]
  case orc => rw [bit_or, bit_not]
  case andiDot => rw [bit_and, hlow]
  case andisDot => rw [bit_and, hhigh]
  case ori => rw [bit_or, hlow]
  case oris => rw [bit_or, hhigh]
  case xori => rw [bit_xor_bne, hlow]
  case xoris => rw [bit_xor_bne, hhigh]

/-! ### Rotation and masks (R585) -/

theorem bit_eq_getMsbD (w : Word) {k : Nat} (hk : k < 32) : bit w k = w.getMsbD k := by
  rw [BitVec.getMsbD_eq_getLsbD, decide_eq_true hk, Bool.true_and]
  rfl

theorem bit_rotl (x : Word) (n : BitVec 5) {k : Nat} (hk : k < 32) : bit (rotl x n) k = bit x ((k + n.toNat) % 32) := by
  rw [bit_eq_getMsbD _ hk, bit_eq_getMsbD x (Nat.mod_lt _ (by decide)), rotl, BitVec.getMsbD_rotateLeft, decide_eq_true hk,
    Bool.true_and, Nat.add_comm]

theorem bit_allOnes (k : Nat) : bit 0xFFFFFFFF#32 k = true := by
  have hlt : 31 - k < 32 := by omega
  exact BitVec.getLsbD_allOnes.trans (decide_eq_true hlt)

/-- The ones from bit `n` on. -/
theorem bit_onesFrom (n : Nat) {k : Nat} (hk : k < 32) : bit ((0xFFFFFFFF#32) >>> n) k = decide (n ≤ k) := by
  rw [bit, show (0xFFFFFFFF#32) = BitVec.allOnes 32 from rfl, BitVec.getLsbD_ushiftRight, BitVec.getLsbD_allOnes,
    decide_eq_decide]
  omega

/-- The ones up to bit `n`. -/
theorem bit_onesUpTo (n : Nat) {k : Nat} (hk : k < 32) : bit ((0xFFFFFFFF#32) <<< (31 - n)) k = decide (k ≤ n) := by
  rw [bit, show (0xFFFFFFFF#32) = BitVec.allOnes 32 from rfl, BitVec.getLsbD_shiftLeft, BitVec.getLsbD_allOnes,
    Bool.eq_iff_iff]
  simp only [Bool.and_eq_true, Bool.not_eq_true', decide_eq_true_eq, decide_eq_false_iff_not]
  omega

theorem bit_mask (mb me : BitVec 5) {k : Nat} (hk : k < 32) : bit (mask mb me) k = Claims.inMask mb me k := by
  rw [mask, Claims.inMask]
  by_cases h : mb.toNat ≤ me.toNat
  · rw [if_pos h, if_pos (BitVec.le_def.mpr h), bit_and, bit_onesFrom _ hk, bit_onesUpTo _ hk, Bool.decide_and]
  · rw [if_neg h, if_neg (mt BitVec.le_def.mp h), bit_or, bit_onesFrom _ hk, bit_onesUpTo _ hk, Bool.decide_or]

/-- Settles O5: it holds. -/
theorem maskAndRotateFollowR585 : Obligations.MaskAndRotateFollowR585 := by
  unfold Obligations.MaskAndRotateFollowR585
  intro mb me n x k hk
  rw [bit_mask mb me hk, Claims.inMask]
  exact ⟨fun h => if_pos h, fun h => if_neg (Nat.not_le_of_lt h), bit_rotl x n hk⟩

/-! ### Rotates (R586 to R588) -/

/-- The rotated bit where the mask is 1. -/
theorem bit_rotl_and_mask (x : Word) (n mb me : BitVec 5) {k : Nat} (hk : k < 32) :
    bit (rotl x n &&& mask mb me) k = (Claims.inMask mb me k && bit x ((k + n.toNat) % 32)) := by
  rw [bit_and, bit_rotl x n hk, bit_mask mb me hk, Bool.and_comm]

/-- One word where the mask is 1, the other elsewhere. -/
theorem bit_select (a b m : Word) (k : Nat) : bit (a &&& m ||| b &&& ~~~m) k = if bit m k then bit a k else bit b k := by
  rw [bit_or, bit_and, bit_and, bit_not]
  cases bit m k <;> simp

/-- Settles O9: it holds. -/
theorem rotatesSelectBitsUnderTheMask : Obligations.RotatesSelectBitsUnderTheMask := by
  unfold Obligations.RotatesSelectBitsUnderTheMask
  intro rA rS rB sh mb me rc s x
  refine ⟨writesBits_of_writeLogic rfl fun k hk => ?rlwimi,
    writesBits_of_writeLogic rfl fun k hk => bit_rotl_and_mask x sh mb me hk,
    writesBits_of_writeLogic rfl fun k hk => ?rlwnm⟩
  case rlwimi => rw [bit_select, bit_mask mb me hk, bit_rotl _ _ hk]
  case rlwnm => rw [bit_rotl_and_mask _ _ mb me hk, BitVec.toNat_setWidth]

/-! ### A shifted result in a register, CA and CR0 -/

/-- A shift writes CA and, beside it, what a logical instruction writes. -/
theorem writeShift_eq_writeLogic (s : State) (rA : Reg) (res : Word) (ca rc : Bool) :
    s.writeShift rA res ca rc = (s.setCa ca).writeLogic rA res rc := rfl

theorem writesBits_of_writeShift {i : Instr} {rA : Reg} {res : Word} {f : Nat → Bool} {ca rc : Bool} {s : State}
    (h : exec i s = done (s.writeShift rA res ca rc)) (hf : ∀ k, k < 32 → bit res k = f k) :
    Claims.WritesBits i rA f (some ca) rc s := by
  rw [writeShift_eq_writeLogic] at h
  obtain ⟨hself, hother⟩ := writesReg_writeLogic (s.setCa ca) rA res rc
  refine ⟨_, h, onlyRegisters_writeLogic (s.setCa ca) rA res rc, sameMemory_writeLogic (s.setCa ca) rA res rc, ?_, hother,
    xerAfter_setCa_ovIf ca false false (by cases rc <;> rfl), ?_⟩
  · rw [hself]; exact hf
  · rw [hself]; exact recorded_writeLogic (s.setCa ca) rA res rc

/-! ### Masks of shifts: a count of 32 or more leaves nothing -/

theorem getLsbD_five (n : BitVec 6) : n.getLsbD 5 = decide (32 ≤ n.toNat) :=
  (BitVec.msb_eq_getLsbD_last n).symm.trans (BitVec.msb_eq_decide n)

theorem inMask_zero (me : BitVec 5) (k : Nat) : Claims.inMask 0#5 me k = decide (k ≤ me.toNat) := by
  simp [Claims.inMask]

theorem inMask_last (mb : BitVec 5) {k : Nat} (hk : k < 32) : Claims.inMask mb 31#5 k = decide (mb.toNat ≤ k) := by
  have hlast : (31#5).toNat = 31 := rfl
  rw [Claims.inMask, hlast, if_pos (Nat.le_of_lt_succ mb.isLt), decide_eq_decide]
  omega

theorem bit_leftMask (n : BitVec 6) {k : Nat} (hk : k < 32) : bit (leftMask n) k = decide (k + n.toNat < 32) := by
  rw [leftMask, getLsbD_five]
  by_cases h : 32 ≤ n.toNat
  · rw [decide_eq_true h, if_pos rfl, bit_zero, decide_eq_false (by omega)]
  · have hend : (31#5 - n.setWidth 5).toNat = 31 - n.toNat := by
      rw [BitVec.toNat_sub, BitVec.toNat_setWidth, show (31#5).toNat = 31 from rfl]
      omega
    rw [decide_eq_false h, if_neg Bool.false_ne_true, bit_mask _ _ hk, inMask_zero, hend, decide_eq_decide]
    omega

theorem bit_rightMask (n : BitVec 6) {k : Nat} (hk : k < 32) : bit (rightMask n) k = decide (n.toNat ≤ k) := by
  rw [rightMask, getLsbD_five]
  by_cases h : 32 ≤ n.toNat
  · rw [decide_eq_true h, if_pos rfl, bit_zero, decide_eq_false (by omega)]
  · have hstart : (n.setWidth 5).toNat = n.toNat := by
      rw [BitVec.toNat_setWidth]
      omega
    rw [decide_eq_false h, if_neg Bool.false_ne_true, bit_mask _ _ hk, inMask_last _ hk, hstart]

/-! ### Shifts (R590 to R593) -/

theorem bit_shiftLeft (x : Word) (n : BitVec 6) {k : Nat} (hk : k < 32) :
    bit (rotl x (n.setWidth 5) &&& leftMask n) k = (decide (k + n.toNat < 32) && bit x (k + n.toNat)) := by
  rw [bit_and, bit_rotl _ _ hk, bit_leftMask n hk, Bool.and_comm, BitVec.toNat_setWidth]
  by_cases h : k + n.toNat < 32
  · rw [show (k + n.toNat % 2 ^ 5) % 32 = k + n.toNat by omega]
  · rw [decide_eq_false h, Bool.false_and, Bool.false_and]

theorem bit_rotr (x : Word) (n : BitVec 6) {k : Nat} (hk : k < 32) :
    bit (rotr x (n.setWidth 5)) k = bit x ((k + 64 - n.toNat) % 32) := by
  have hn := n.isLt
  rw [rotr, bit_rotl _ _ hk, BitVec.toNat_sub, BitVec.toNat_setWidth, show (0#5).toNat = 0 from rfl]
  congr 1
  omega

theorem bit_rotr_of_le (x : Word) (n : BitVec 6) {k : Nat} (hk : k < 32) (h : n.toNat ≤ k) :
    bit (rotr x (n.setWidth 5)) k = bit x (k - n.toNat) := by
  rw [bit_rotr x n hk, show (k + 64 - n.toNat) % 32 = k - n.toNat by omega]

theorem bit_shiftRight (x : Word) (n : BitVec 6) {k : Nat} (hk : k < 32) :
    bit (rotr x (n.setWidth 5) &&& rightMask n) k = (decide (n.toNat ≤ k) && bit x (k - n.toNat)) := by
  rw [bit_and, bit_rightMask n hk, Bool.and_comm]
  by_cases h : n.toNat ≤ k
  · rw [bit_rotr_of_le x n hk h]
  · rw [decide_eq_false h, Bool.false_and, Bool.false_and]

/-- The word made of copies of the sign. -/
theorem bit_signWord (x : Word) (k : Nat) : bit (if bit x 0 then 0xFFFFFFFF#32 else 0#32) k = bit x 0 := by
  cases bit x 0
  · exact bit_zero k
  · exact bit_allOnes k

/-- What the mask leaves out stands before bit `n`, where the truncated `k - n` names the sign. -/
theorem bit_algebraicShift (x : Word) (n : BitVec 6) {k : Nat} (hk : k < 32) :
    bit (algebraicShift x n) k = bit x (k - n.toNat) := by
  rw [algebraicShift, bit_select, bit_rightMask n hk, bit_signWord]
  by_cases h : n.toNat ≤ k
  · rw [decide_eq_true h, if_pos rfl, bit_rotr_of_le x n hk h]
  · rw [decide_eq_false h, if_neg Bool.false_ne_true, Nat.sub_eq_zero_of_le (Nat.le_of_not_le h)]

/-- A negative number loses a 1 bit where it is shifted right by `m`. -/
def negativeLosesOne (x : Word) (m : Nat) : Bool :=
  bit x 0 && (List.range 32).any fun j => decide (32 ≤ j + m) && bit x j

/-- The rotate takes bit `j` to bit `(j + n) % 32`, which lies outside the mask exactly where `32 ≤ j + n`. -/
theorem algebraicCarry_eq (x : Word) (n : BitVec 6) : algebraicCarry x n = negativeLosesOne x n.toNat := by
  have hn := n.isLt
  rw [algebraicCarry, negativeLosesOne]
  congr 1
  rw [Bool.eq_iff_iff, bne_iff_ne, word_ne_zero_iff]
  simp only [bit_and, bit_not, List.any_eq_true, List.mem_range, Bool.and_eq_true, decide_eq_true_eq]
  constructor
  · rintro ⟨k, hk, hbit, hout⟩
    rw [bit_rotr x n hk] at hbit
    rw [bit_rightMask n hk, Bool.not_eq_true', decide_eq_false_iff_not] at hout
    exact ⟨(k + 64 - n.toNat) % 32, Nat.mod_lt _ (by decide), by omega, hbit⟩
  · rintro ⟨j, hj, hlost, hbit⟩
    have hk : (j + n.toNat) % 32 < 32 := Nat.mod_lt _ (by decide)
    refine ⟨(j + n.toNat) % 32, hk, ?_, ?_⟩
    · rw [bit_rotr x n hk, show ((j + n.toNat) % 32 + 64 - n.toNat) % 32 = j by omega]
      exact hbit
    · rw [bit_rightMask n hk, Bool.not_eq_true', decide_eq_false_iff_not]
      omega

theorem writesBits_of_algebraicShift {i : Instr} {rA : Reg} {x : Word} {n : BitVec 6} {rc : Bool} {s : State}
    (h : exec i s = done (s.writeShift rA (algebraicShift x n) (algebraicCarry x n) rc)) :
    Claims.WritesBits i rA (fun k => bit x (k - n.toNat)) (some (negativeLosesOne x n.toNat)) rc s := by
  rw [algebraicCarry_eq] at h
  exact writesBits_of_writeShift h fun k hk => bit_algebraicShift x n hk

/-- Settles O10: it holds. -/
theorem shiftsMoveBitsAndSetCarry : Obligations.ShiftsMoveBitsAndSetCarry := by
  unfold Obligations.ShiftsMoveBitsAndSetCarry
  intro rA rS rB sh rc s x n lost
  have hn : ((s.reg rB).setWidth 6).toNat = n := BitVec.toNat_setWidth _ _
  have hsh : (sh.setWidth 6).toNat = sh.toNat := BitVec.toNat_setWidth_of_le (by decide)
  have hlow : (s.reg rB).setWidth 5 = ((s.reg rB).setWidth 6).setWidth 5 :=
    (BitVec.setWidth_setWidth_of_le _ (by decide)).symm
  refine ⟨writesBits_of_writeLogic rfl fun k hk => ?slw, writesBits_of_writeLogic rfl fun k hk => ?srw, ?sraw, ?srawi⟩
  case slw => rw [hlow, bit_shiftLeft _ _ hk, hn]
  case srw => rw [hlow, bit_shiftRight _ _ hk, hn]
  case sraw => rw [← hn]; exact writesBits_of_algebraicShift rfl
  case srawi => rw [← hsh]; exact writesBits_of_algebraicShift rfl

end Sys2Proof.Machine
